-- ==== Sys2Proof/Word.lean ====
section
/-! DEFINITION. The machine's data widths (00_scope.md rule R6): 32-bit registers and buffer addresses,
8-bit bytes, 16-bit packed pixels. -/

namespace Sys2Proof

/-- A register, or the data of a register transaction: 32 bits (`XLEN`, rule R6; rule R11). -/
abbrev Word := BitVec 32

/-- The smallest addressable unit of buffer memory: 8 bits (rule R6). -/
abbrev Byte := BitVec 8

/-- A packed 5-6-5 pixel: 16 bits (rule R9). -/
abbrev Pixel := BitVec 16

/-- A byte as a 32-bit number, zero-extended and never sign-extended (41_checksum.md rule R100). -/
def zext32 (b : Byte) : Word := b.zeroExtend 32

end Sys2Proof
end

