-- ==== Sys2Proof/Syntax.lean ====
section
/-! DEFINITION. The commands of the block, one constructor per row of spec/opcode_table.json
(30_encoding.md rule R64). Every buffer address, count and datum of a command stands in the operand
registers; the only operands inside a command word are the two widths of `CONV` (rules R61, R65). -/

namespace Sys2Proof

/-- A decoded command: the block's analogue of an instruction (00_scope.md rule R9). -/
inductive Instr where
  /-- `NOP`: no operand (40_command_execution.md rule R86). -/
  | nop
  /-- `SUM`: reads `SRC`, `LEN`, `CSUM` (41_checksum.md rule R101). -/
  | sum
  /-- `ROWREV`: reads `SRC`, `DST`, `LEN`, `ROWB` (42_buffer.md rule R111). -/
  | rowrev
  /-- `SWAPRB`: reads `SRC`, `DST`, `LEN` (42_buffer.md rule R116). -/
  | swaprb
  /-- `CONV s, d`: reads `OPA` and the immediates `SBITS` = s, `DBITS` = d, each an unsigned 4-bit
  number used as it stands (43_convert.md rule R127, 30_encoding.md rule R65). -/
  | conv (sbits dbits : BitVec 4)
  /-- `PACK`: reads `SRC`, `DST`, `LEN`, `CTRL.ORDER` (44_pack_unpack.md rule R138). -/
  | pack
  /-- `UNPACK`: reads `SRC`, `DST`, `LEN`, `CTRL.ORDER` (44_pack_unpack.md rule R140). -/
  | unpack
deriving DecidableEq, Repr

end Sys2Proof
end

