-- ==== Sys2Proof/WellFormed.lean ====
section
/-! DEFINITION. Which command words and commands are well formed. A word is checked against the match and
mask columns of the table of 30_encoding.md rule R64, written here apart from the decoder, so that the
decoder can be held against them. A command needs no further check: every pair of nibbles is a legal pair of
`CONV` widths as an encoding (rule R66), and the width of the two fields is in their type. -/

namespace Sys2Proof

/-- One row of the opcode table: a word `w` selects it exactly when `w & mask = pattern` (rule R64). -/
structure OpcodeRow where
  mnemonic : String
  pattern  : Word
  mask     : Word
deriving DecidableEq, Repr

/-- The complete table of rule R64: seven rows, in its order. -/
def opcodeRows : List OpcodeRow :=
  [⟨"NOP",    0x00000000, 0xFFFFFFFF⟩,
   ⟨"SUM",    0x00000001, 0xFFFFFFFF⟩,
   ⟨"ROWREV", 0x00000002, 0xFFFFFFFF⟩,
   ⟨"SWAPRB", 0x00000003, 0xFFFFFFFF⟩,
   ⟨"CONV",   0x00000004, 0xFFFF00FF⟩,
   ⟨"PACK",   0x00000005, 0xFFFFFFFF⟩,
   ⟨"UNPACK", 0x00000006, 0xFFFFFFFF⟩]

/-- `w` selects the row `r` (rule R64). -/
def OpcodeRow.selects (r : OpcodeRow) (w : Word) : Bool := w &&& r.mask == r.pattern

/-- A command word is well formed when it selects a row of the table; every other word is `Illegal`
(rules R64, R66, R67). -/
def wellFormedWord (w : Word) : Bool := opcodeRows.any (·.selects w)

/-- The mnemonic of a command, as the opcode table spells it. -/
def Instr.mnemonic : Instr → String
  | .nop => "NOP"
  | .sum => "SUM"
  | .rowrev => "ROWREV"
  | .swaprb => "SWAPRB"
  | .conv _ _ => "CONV"
  | .pack => "PACK"
  | .unpack => "UNPACK"

/-- Every command the type admits is well formed: `Decode` of a `CONV` word succeeds for every `SBITS` and
`DBITS` in 0 to 15, and whether the widths are acceptable is checked when the command runs (rule R64,
43_convert.md rule R128). -/
def Instr.wellFormed : Instr → Bool
  | .nop => true
  | .sum => true
  | .rowrev => true
  | .swaprb => true
  | .conv _ _ => true
  | .pack => true
  | .unpack => true

end Sys2Proof
end

