-- ==== Sys2Proof/Decode.lean ====
section
/-! DEFINITION. `Decode` of 30_encoding.md rule R64, total on every 32-bit word, and the encoder of rules R62
and R63. A command word is the data of one host write to `CMD`; it has no byte order (20_memory.md rule R43). -/

namespace Sys2Proof

/-- Why a word is no legal command word (30_encoding.md rule R67). The block itself answers each with the
same error, `ILLEGAL` (60_exceptions.md rule R152). -/
inductive Illegal where
  /-- A nonzero bit in the must-be-zero fields `Z1` = `w[31:16]` or `Z0` = `w[7:4]`. -/
  | reservedBits
  /-- A nonzero width field `SBITS` or `DBITS` in a word whose opcode is not `CONV`'s. -/
  | widthFields
  /-- An opcode 7 to 15. -/
  | reservedOpcode
deriving DecidableEq, Repr

/-- `OP` = `w[3:0]` (rule R60). -/
def opField (w : Word) : BitVec 4 := w.extractLsb' 0 4

/-- `Z0` = `w[7:4]`, zero in every command (rule R60). -/
def z0Field (w : Word) : BitVec 4 := w.extractLsb' 4 4

/-- `SBITS` = `w[11:8]` (rules R60, R65). -/
def sbitsField (w : Word) : BitVec 4 := w.extractLsb' 8 4

/-- `DBITS` = `w[15:12]` (rules R60, R65). -/
def dbitsField (w : Word) : BitVec 4 := w.extractLsb' 12 4

/-- `Z1` = `w[31:16]`, zero in every command (rule R60). -/
def z1Field (w : Word) : BitVec 16 := w.extractLsb' 16 16

/-- `Decode(w)` (rule R64), its tests in the rule's order. -/
def decode (w : Word) : Except Illegal Instr :=
  if z1Field w ≠ 0 ∨ z0Field w ≠ 0 then .error .reservedBits
  else if opField w = 4 then .ok (.conv (sbitsField w) (dbitsField w))
  else if sbitsField w ≠ 0 ∨ dbitsField w ≠ 0 then .error .widthFields
  else if opField w = 0 then .ok .nop
  else if opField w = 1 then .ok .sum
  else if opField w = 2 then .ok .rowrev
  else if opField w = 3 then .ok .swaprb
  else if opField w = 5 then .ok .pack
  else if opField w = 6 then .ok .unpack
  else .error .reservedOpcode

/-- Format C (rule R63): `w = (DBITS << 12) | (SBITS << 8) | 4`. -/
def formatC (sbits dbits : BitVec 4) : Word :=
  (dbits.zeroExtend 32 <<< 12) ||| (sbits.zeroExtend 32 <<< 8) ||| 4

/-- The one word of each command (Format Z, rule R62; Format C, rule R63). -/
def encode : Instr → Word
  | .nop => 0x00000000
  | .sum => 0x00000001
  | .rowrev => 0x00000002
  | .swaprb => 0x00000003
  | .conv sbits dbits => formatC sbits dbits
  | .pack => 0x00000005
  | .unpack => 0x00000006

/-- The host's question about one opcode-table word: every command is one 32-bit word (rule R60), so a word
given in at most 32 bits is decoded as it stands and a longer one is no command. -/
def decodeTableWord (nbits w : Nat) : Option Instr :=
  if nbits ≤ 32 ∧ w < 2 ^ 32 then (decode (BitVec.ofNat 32 w)).toOption else none

/-! Each command's decoding, on the word written out from 30_encoding.md rules R62 and R63. -/

theorem decode_nop : decode 0b0000_0000_0000_0000_0000_0000_0000_0000 = .ok .nop := by decide
theorem decode_sum : decode 0b0000_0000_0000_0000_0000_0000_0000_0001 = .ok .sum := by decide
theorem decode_rowrev : decode 0b0000_0000_0000_0000_0000_0000_0000_0010 = .ok .rowrev := by decide
theorem decode_swaprb : decode 0b0000_0000_0000_0000_0000_0000_0000_0011 = .ok .swaprb := by decide
/-- `CONV 8, 5` is 0x0000_5804 (43_convert.md rule R127): dddd = 0101, ssss = 1000. -/
theorem decode_conv : decode 0b0000_0000_0000_0000_0101_1000_0000_0100 = .ok (.conv 8 5) := by decide
theorem decode_pack : decode 0b0000_0000_0000_0000_0000_0000_0000_0101 = .ok .pack := by decide
theorem decode_unpack : decode 0b0000_0000_0000_0000_0000_0000_0000_0110 = .ok .unpack := by decide

end Sys2Proof
end

