-- ==== Sys2Proof/Config.lean ====
section
/-! DEFINITION. The block's fixed parameters (00_scope.md rule R6) and the one free value of the spec:
what a byte of buffer memory that nothing has written holds (93_implementation_defined.md U1). -/

namespace Sys2Proof

/-- `ID_VALUE`: the constant the `ID` register reads, the bytes "C565" (10_state.md rule R22). -/
def Config.idValue : Word := 0x43353635

/-- `MAXBITS`: the largest channel width `CONV` accepts (rule R6, 43_convert.md rule R128). -/
def Config.maxBits : Nat := 8

/-- `REGWIN`: the size of the register window in bytes (rule R6, 20_memory.md rule R40). -/
def Config.regWindow : Nat := 256

/-- `MEM_SIZE` - 1 in the state after reset. `MEM_SIZE` is OPEN (1 to 2^32, 92_eei_decisions.md D5); every
state carries a value of its own, and this is the value of the spec's test vectors, 0x0200_0000.
DESIGN CHOICE (notes/assumptions/3.md), unsafe. -/
def Config.defaultMemTop : Word := 0x01FFFFFF

/-- A FREE VALUE: the byte the buffer memory holds at address `a` from power-up until something writes it.
"Each unwritten byte holds an arbitrary, fixed value" (93_implementation_defined.md U1, 10_state.md rule R31).
It has no body, so no proof can see what it is (notes/assumptions/2.md, safe). -/
opaque Config.powerUpByte : Nat → Byte

end Sys2Proof
end

