-- ==== Sys2Proof/Machine/Transaction.lean ====
section
/-! DEFINITION. The host's transactions, the five kinds of step of the machine (40_command_execution.md rule
R80), and the register window they address (10_state.md rule R11). -/

namespace Sys2Proof.Machine

/-- The thirteen registers of the register map (rule R11). -/
inductive RegName where
  | id | ctrl | status | cmd | src | dst | len | rowb | opa | res | csum | faddr | fcmd
deriving DecidableEq, Repr

/-- The byte offset of a register inside the window (rule R11, column Offset). -/
def RegName.offset : RegName → Nat
  | .id => 0x00
  | .ctrl => 0x04
  | .status => 0x08
  | .cmd => 0x0C
  | .src => 0x10
  | .dst => 0x14
  | .len => 0x18
  | .rowb => 0x1C
  | .opa => 0x20
  | .res => 0x24
  | .csum => 0x28
  | .faddr => 0x2C
  | .fcmd => 0x30

/-- Every register, in the order of the map (rule R11). -/
def RegName.all : List RegName :=
  [.id, .ctrl, .status, .cmd, .src, .dst, .len, .rowb, .opa, .res, .csum, .faddr, .fcmd]

/-- The register at an offset of the window; none at the unmapped offsets 0x34 to 0xFC (rule R29). -/
def RegName.ofOffset (off : Nat) : Option RegName :=
  RegName.all.find? (fun r => r.offset == off)

/-- A host transaction (rule R80). Offsets and buffer addresses are natural numbers: the ones outside the
ranges of rule R80 can be written down and are refused. An access narrower or wider than rule R80's cannot be
written down (93_implementation_defined.md U4). -/
inductive Transaction where
  /-- `RegRead(off)`: returns a 32-bit value (rule R81). -/
  | regRead (off : Nat)
  /-- `RegWrite(off, v)`: returns nothing (rule R82); at offset 0x0C it presents a command (rule R83). -/
  | regWrite (off : Nat) (v : Word)
  /-- `BufRead(a)`: the host's own load of a byte (rule R88). -/
  | bufRead (a : Nat)
  /-- `BufWrite(a, b)`: the host's own store of a byte (rule R88). -/
  | bufWrite (a : Nat) (b : Byte)
  /-- `Reset`: the reset input (70_reset_and_hazards.md rule R175). -/
  | reset
deriving DecidableEq, Repr

/-- What a transaction returns to the host (rule R80, column Returns). -/
inductive Reply where
  | reg (v : Word)
  | byte (b : Byte)
deriving DecidableEq, Repr

/-- A register access is at a multiple of 4 in 0x00 to 0xFC (20_memory.md rule R43). -/
def validOffset (off : Nat) : Bool := off % 4 == 0 && decide (off < Config.regWindow)

/-- The arguments rule R80 admits, for a buffer memory of `memSize` bytes. -/
def Transaction.valid (memSize : Nat) : Transaction → Bool
  | .regRead off => validOffset off
  | .regWrite off _ => validOffset off
  | .bufRead a => decide (a < memSize)
  | .bufWrite a _ => decide (a < memSize)
  | .reset => true

/-- The host writes a command word to `CMD` (30_encoding.md rule R60). -/
def Transaction.command (w : Word) : Transaction := .regWrite RegName.cmd.offset w

end Sys2Proof.Machine
end

