-- ==== Sys2Proof/Machine/State.lean ====
section
/-! DEFINITION. The machine's state (10_state.md rules R10 to R31): the registers, the buffer memory beside
them, the platform's `MEM_SIZE`, and the host's side, which is the only agent (00_scope.md rule R5): the
transactions it has still to make and what it has been answered. -/

namespace Sys2Proof.Machine

/-- `CTRL.ORDER`: the order of the channels of a 24-bit pixel at ascending addresses (rule R23,
44_pack_unpack.md rule R137). -/
inductive ChannelOrder where
  /-- `ORDER` = 0: blue, green, red. -/
  | bgr
  /-- `ORDER` = 1: red, green, blue. -/
  | rgb
deriving DecidableEq, Repr

/-- The error codes (60_exceptions.md rule R151). -/
inductive ErrorCode where
  | illegal | param | range | overlap
deriving DecidableEq, Repr

/-- What a command raises: `raise Error(code, info)` (00_scope.md rule R7, 60_exceptions.md rule R157). -/
structure CommandError where
  code : ErrorCode
  info : Word
deriving DecidableEq, Repr

/-- The bytes that something has written, as address and byte, in rising address order, one entry an address.
An address with no entry has not been written: see `State.byteAt` in Machine/Ops.lean for what it reads as. -/
abbrev Memory := List Host.Cell

/-- The canonical form of the memory: addresses strictly rising, so that memories with the same bytes written
are the same list. -/
abbrev Memory.wf (m : Memory) : Prop := m.Pairwise (fun x y => x.1 < y.1)

/-- The state. `ID` is a constant and `CMD` is not stored (rules R22, R26): the register port answers both. -/
structure State where
  /-- `CTRL.ORDER`; `CTRL` bits 31:1 are hardwired zero (rule R23). -/
  order : ChannelOrder
  /-- `STATUS.DONE` (rule R24). -/
  done : Bool
  /-- `STATUS.ERR` (rule R24). -/
  err : Bool
  /-- `STATUS.ECODE` (rule R24); the remaining `STATUS` bits are hardwired zero. -/
  ecode : BitVec 4
  /-- `SRC` (rule R13). -/
  src : Word
  /-- `DST` (rule R14). -/
  dst : Word
  /-- `LEN` (rule R15). -/
  len : Word
  /-- `ROWB` (rule R16). -/
  rowb : Word
  /-- `OPA` (rule R17). -/
  opa : Word
  /-- `RES` (rule R18). -/
  res : Word
  /-- `CSUM` (rule R19). -/
  csum : Word
  /-- `FADDR` (rule R27). -/
  faddr : Word
  /-- `FCMD` (rule R28). -/
  fcmd : Word
  /-- The buffer memory (rule R31). -/
  mem : Memory
  /-- `MEM_SIZE` - 1, the highest valid buffer address: a parameter, which no step changes (00_scope.md rule
  R6). Held as the highest address so that 1 <= `MEM_SIZE` <= 2^32 by its type (notes/assumptions/3.md). -/
  memTop : Word
  /-- The transactions the host has still to make, next first (rule R80; notes/assumptions/1.md). -/
  script : List Transaction
  /-- What the host's reads have been answered, newest first (rule R80; notes/assumptions/1.md). -/
  replies : List Reply
deriving DecidableEq, Repr

/-- The machine right after power-up: every register at its reset value (rule R11, 70_reset_and_hazards.md
rule R175), no byte of memory written (rule R176), the host with nothing to do and nothing answered. -/
def State.reset : State where
  order := .bgr
  done := false
  err := false
  ecode := 0
  src := 0
  dst := 0
  len := 0
  rowb := 0
  opa := 0
  res := 0
  csum := 0
  faddr := 0
  fcmd := 0
  mem := []
  memTop := Config.defaultMemTop
  script := []
  replies := []

/-- Why the machine has no next step. An error of a command is no fault: it is a next state (rule R157). -/
inductive Fault where
  /-- Raised by `step` when the host has no transaction left to make: a stuck state. All steps are taken by
  the host and the block takes none by itself (40_command_execution.md rule R80). Safe: nothing happens. -/
  | hostIdle
deriving DecidableEq, Repr

/-- What the model gives no meaning. -/
inductive Refusal where
  /-- A command that has no meaning in the model, by its mnemonic; no arm of `exec` answers it. Safe. -/
  | notModelled (mnemonic : String)
  /-- Raised by `transact` for a register access at an offset that is no multiple of 4 or is 0x100 or more:
  "a model refuses them (gives them no meaning)" (20_memory.md rule R43). Safe. -/
  | undefinedRegisterAccess
  /-- Raised by `transact` for a host access to a buffer address at or above `MEM_SIZE`: "outside this spec: a
  model refuses it" (40_command_execution.md rule R88). Safe. -/
  | invalidBufferAccess
deriving DecidableEq, Repr

end Sys2Proof.Machine
end

