-- ==== Sys2Proof/Machine/Flags.lean ====
section
/-! DEFINITION. `STATUS`: its flags `DONE` and `ERR`, the only two the block has (10_state.md rule R21), what
sets and clears them, and the word a host read returns (rules R24, R25). -/

namespace Sys2Proof.Machine

/-- The number of an error code (60_exceptions.md rule R151). -/
def ErrorCode.number : ErrorCode → BitVec 4
  | .illegal => 1
  | .param => 2
  | .range => 3
  | .overlap => 4

/-- One bit as a 32-bit number. -/
def flagBit (b : Bool) : Word := if b then 1 else 0

/-- `STATUS` as a host read returns it: `(ECODE << 4) | (ERR << 1) | DONE` (rule R24). -/
def State.statusWord (s : State) : Word :=
  (s.ecode.zeroExtend 32 <<< 4) ||| (flagBit s.err <<< 1) ||| flagBit s.done

/-- `DONE <- 0`, as an executed command starts (40_command_execution.md rule R83). -/
def State.clearDone (s : State) : State := { s with done := false }

/-- `DONE <- 1`, as a command completes without error (rule R83). -/
def State.setDone (s : State) : State := { s with done := true }

/-- Acknowledging an error, the block's return from a trap: `ERR`, `ECODE`, `FADDR`, `FCMD` become 0 and
nothing else is restored (60_exceptions.md rule R160). -/
def State.clearError (s : State) : State := { s with err := false, ecode := 0, faddr := 0, fcmd := 0 }

/-- A host write to `STATUS`: bit 0 clears `DONE`, bit 1 clears the error, bits 31:2 are ignored (rule R25). -/
def State.writeStatus (v : Word) (s : State) : State :=
  let s₁ := if v.getLsbD 0 then s.clearDone else s
  if v.getLsbD 1 then s₁.clearError else s₁

end Sys2Proof.Machine
end

