-- ==== Sys2Proof/Machine/Ops.lean ====
section
/-! DEFINITION. The named operations over memory and registers, raising an error and running a command:
20_memory.md, 10_state.md, 60_exceptions.md rule R157, 40_command_execution.md rules R81 to R83. -/

namespace Sys2Proof.Machine

/-! Buffer memory. -/

/-- The byte last written at `a`, if any. -/
def Memory.read? : Memory → Nat → Option Byte
  | [], _ => none
  | (b, v) :: m, a => if a = b then some v else Memory.read? m a

/-- Write one byte, keeping the addresses rising. -/
def Memory.write : Memory → Nat → Byte → Memory
  | [], a, v => [(a, v)]
  | (b, u) :: m, a, v =>
    if a < b then (a, v) :: (b, u) :: m
    else if a = b then (a, v) :: m
    else (b, u) :: Memory.write m a v

/-- `MEM_SIZE` (00_scope.md rule R6). -/
def State.memSize (s : State) : Nat := s.memTop.toNat + 1

/-- `Mem[a]`: the byte last written there, and a free value, fixed for the address, where nothing has been
written (20_memory.md rule R41, 10_state.md rule R31; notes/assumptions/2.md). -/
def State.byteAt (s : State) (a : Nat) : Byte := (s.mem.read? a).getD (Config.powerUpByte a)

/-- `Mem[a] <- v`, which is also `MemWrite(a, 1, v)` (00_scope.md rule R7). -/
def State.setByte (s : State) (a : Nat) (v : Byte) : State := { s with mem := s.mem.write a v }

/-- `MemRead(a, 2)`: two single-byte accesses, the byte at the lower address most significant (rule R7,
20_memory.md rules R44, R48). -/
def State.pixelAt (s : State) (a : Nat) : Pixel := s.byteAt a ++ s.byteAt (a + 1)

/-- `MemWrite(a, 2, p)`: bits 15:8 at `a`, bits 7:0 at `a + 1` (rules R7, R44, R48). -/
def State.setPixel (s : State) (a : Nat) (p : Pixel) : State :=
  (s.setByte a (p.extractLsb' 8 8)).setByte (a + 1) (p.extractLsb' 0 8)

/-- The bytes `Mem[a]` to `Mem[a + n - 1]` in order. -/
def State.bytesAt (s : State) (a n : Nat) : List Byte := (List.range n).map (fun i => s.byteAt (a + i))

/-- `InRange(base, n)`: on unbounded natural numbers, with no wrap-around at 2^32 (20_memory.md rule R46). -/
def State.inRange (s : State) (base : Word) (n : Nat) : Bool :=
  n == 0 || decide (base.toNat + n ≤ s.memSize)

/-- `Overlap(a, na, b, nb)` (20_memory.md rule R47). -/
def overlap (a : Word) (na : Nat) (b : Word) (nb : Nat) : Bool :=
  decide (0 < na ∧ 0 < nb ∧ a.toNat < b.toNat + nb ∧ b.toNat < a.toNat + na)

/-- `for i in 0 .. n-1: body`, in that order and zero times when n = 0 (00_scope.md rule R7). -/
def forUpTo {α : Type} : Nat → (Nat → α → α) → α → α
  | 0, _, x => x
  | n + 1, body, x => body n (forUpTo n body x)

/-! The register port. -/

/-- What a host read of a register returns (40_command_execution.md rule R81). -/
def State.readReg (s : State) : RegName → Word
  | .id => Config.idValue
  | .ctrl => match s.order with | .bgr => 0 | .rgb => 1
  | .status => s.statusWord
  | .cmd => 0
  | .src => s.src
  | .dst => s.dst
  | .len => s.len
  | .rowb => s.rowb
  | .opa => s.opa
  | .res => s.res
  | .csum => s.csum
  | .faddr => s.faddr
  | .fcmd => s.fcmd

/-- What a host read at an offset of the window returns: 0 at an unmapped one (rules R29, R81). -/
def State.readOffset (s : State) (off : Nat) : Word :=
  match RegName.ofOffset off with
  | some r => s.readReg r
  | none => 0

/-- The `ORDER` a host write to `CTRL` selects: bit 0 of the value (10_state.md rule R23). -/
def orderSelected (v : Word) : ChannelOrder := if v.getLsbD 0 then .rgb else .bgr

/-- What a host write to a register other than `CMD` does (rule R82). The read-only registers ignore it, and
`CMD` stores nothing: what a write to it does is `execute` in Machine/Transact.lean (rules R26, R29). -/
def State.writeReg (s : State) (r : RegName) (v : Word) : State :=
  match r with
  | .id => s
  | .ctrl => { s with order := orderSelected v }
  | .status => s.writeStatus v
  | .cmd => s
  | .src => { s with src := v }
  | .dst => { s with dst := v }
  | .len => { s with len := v }
  | .rowb => { s with rowb := v }
  | .opa => { s with opa := v }
  | .res => s
  | .csum => { s with csum := v }
  | .faddr => s
  | .fcmd => s

/-! Errors and the frame every command runs in. -/

/-- `raise Error(code, info)` of the command word `w`: the block's exception entry. `ERR`, `ECODE`, `FADDR`
and `FCMD` record it; `DONE` is already 0 and nothing else is saved anywhere (60_exceptions.md rule R157). -/
def State.raiseError (s : State) (w : Word) (e : CommandError) : State :=
  { s with err := true, ecode := e.code.number, faddr := e.info, fcmd := w }

/-- `Execute(w)` around a command's own routine `body` (40_command_execution.md rule R83): dropped while
`ERR` = 1; else `DONE <- 0`, then the routine, then `DONE <- 1`, or the error the routine raised. A routine
that raises answers no state, so that a failing command changes nothing else (60_exceptions.md rule R158).
DEDUCED (notes/assumptions/4.md, notes/assumptions/5.md), safe: `w` is the word written, and the test of `ERR` stands
here once instead of before `Decode`. -/
def runCommand (w : Word) (body : State → Except CommandError State) (s : State) : State :=
  if s.err then s
  else
    match body s.clearDone with
    | .ok t => t.setDone
    | .error e => s.clearDone.raiseError w e

/-- `Reset`: every register takes its reset value; the buffer memory is neither read nor written
(70_reset_and_hazards.md rules R175, R176). The platform's `MEM_SIZE` and the host's side are no registers, and stay
(DEDUCED, safe: notes/assumptions/7.md). -/
def State.resetRegisters (s : State) : State :=
  { State.reset with mem := s.mem, memTop := s.memTop, script := s.script, replies := s.replies }

end Sys2Proof.Machine
end

