-- ==== Sys2Proof/Machine/Operands.lean ====
section
/-! DEFINITION. What the commands take from the operand registers and the command word: the unit of `LEN`
and the byte counts of the ranges (10_state.md rule R15, 60_exceptions.md rule R154), the checks made on them
before anything is written (40_command_execution.md rule R87), and `CONV`'s checks (43_convert.md rule R128).
Counts are natural numbers and never wrap. -/

namespace Sys2Proof.Machine

/-- `LEN` bytes, the unit of `SUM` (rule R15). -/
def State.lenBytes (s : State) : Nat := s.len.toNat

/-- `LEN` rows of `ROWB` bytes: the size of both ranges of `ROWREV` (42_buffer.md rule R111). -/
def State.rowBytes (s : State) : Nat := s.len.toNat * s.rowb.toNat

/-- The size of a buffer of `LEN` 24-bit pixels (20_memory.md rule R41). -/
def State.rgbBytes (s : State) : Nat := 3 * s.len.toNat

/-- The size of a buffer of `LEN` 16-bit pixels (20_memory.md rule R41). -/
def State.packedBytes (s : State) : Nat := 2 * s.len.toNat

/-- The one check of `SUM`: its source range (41_checksum.md rule R101). -/
def checkSource (s : State) (sn : Nat) : Except CommandError Unit :=
  if s.inRange s.src sn then .ok () else .error ⟨.range, s.src⟩

/-- `CheckBuffers(sn, dn)`: the source range, then the destination range, then their overlap (rule R87). -/
def checkBuffers (s : State) (sn dn : Nat) : Except CommandError Unit :=
  if !s.inRange s.src sn then .error ⟨.range, s.src⟩
  else if !s.inRange s.dst dn then .error ⟨.range, s.dst⟩
  else if overlap s.src sn s.dst dn then .error ⟨.overlap, 0⟩
  else .ok ()

/-- A channel width `CONV` accepts: 1 to `MAXBITS` (rule R128, check 1). -/
def widthOk (n : Nat) : Bool := decide (1 ≤ n ∧ n ≤ Config.maxBits)

/-- `CONV`'s checks, widths before operand; all 32 bits of `OPA` are considered (rule R128). -/
def checkConvert (s : State) (sbits dbits : Nat) : Except CommandError Unit :=
  if !widthOk sbits || !widthOk dbits then .error ⟨.param, 0⟩
  else if s.opa.toNat > 2 ^ sbits - 1 then .error ⟨.param, 0⟩
  else .ok ()

/-- The three bytes of a 24-bit pixel, in ascending address order. -/
structure Rgb24 where
  b0 : Byte
  b1 : Byte
  b2 : Byte
deriving DecidableEq, Repr

/-- The three 8-bit channels of a pixel (00_scope.md rule R9). -/
structure Channels where
  r8 : Byte
  g8 : Byte
  b8 : Byte
deriving DecidableEq, Repr

/-- Which channel each byte of a 24-bit pixel is, as `PACK` reads it (44_pack_unpack.md rule R137). -/
def channelsOf : ChannelOrder → Rgb24 → Channels
  | .bgr, p => ⟨p.b2, p.b1, p.b0⟩
  | .rgb, p => ⟨p.b0, p.b1, p.b2⟩

/-- Which byte of a 24-bit pixel each channel is, as `UNPACK` writes it (rule R137). -/
def bytesOf : ChannelOrder → Channels → Rgb24
  | .bgr, c => ⟨c.b8, c.g8, c.r8⟩
  | .rgb, c => ⟨c.r8, c.g8, c.b8⟩

/-- The 24-bit pixel at a byte address (rule R137). -/
def State.rgbAt (s : State) (a : Nat) : Rgb24 := ⟨s.byteAt a, s.byteAt (a + 1), s.byteAt (a + 2)⟩

/-- Write a 24-bit pixel at a byte address, lowest address first (rules R116, R140). -/
def State.setRgb (s : State) (a : Nat) (p : Rgb24) : State :=
  ((s.setByte a p.b0).setByte (a + 1) p.b1).setByte (a + 2) p.b2

end Sys2Proof.Machine
end

