-- ==== Sys2Proof/Machine/Buffer.lean ====
section
/-! DEFINITION. The commands that move bytes without arithmetic on them: `ROWREV` and `SWAPRB`
(42_buffer.md), each beside the function on byte sequences it computes (rules R110, R115). -/

namespace Sys2Proof.Machine

/-- `rowrev(B, rows, rowb)`: `B'[i * rowb + j] = B[(rows - 1 - i) * rowb + j]` (rule R110), for `B` of length
`rows * rowb`; place `k` is row `k / rowb`, byte `k % rowb` of it. On a sequence of another length, here and in
`swaprb`, the value is the model's (DESIGN CHOICE, safe: notes/assumptions/10.md). -/
def rowrev (bytes : List Byte) (rows rowb : Nat) : List Byte :=
  (List.range (rows * rowb)).map
    (fun k => bytes.getD ((rows - 1 - k / rowb) * rowb + k % rowb) 0)

/-- `swaprb(B)`: in each pixel of three bytes the first and third change places (rule R115). -/
def swaprb : List Byte → List Byte
  | b0 :: b1 :: b2 :: rest => b2 :: b1 :: b0 :: swaprb rest
  | _ => []

/-- The double loop of `DoRowrev`, reading and writing one byte at a time (rule R111). -/
def rowrevLoop (src dst rows rowb : Nat) (s : State) : State :=
  forUpTo rows
    (fun i s =>
      forUpTo rowb
        (fun j s => s.setByte (dst + i * rowb + j) (s.byteAt (src + (rows - 1 - i) * rowb + j))) s) s

/-- `DoRowrev` (rule R111). -/
def doRowrev (s : State) : Except CommandError State :=
  match checkBuffers s s.rowBytes s.rowBytes with
  | .error e => .error e
  | .ok _ => .ok (rowrevLoop s.src.toNat s.dst.toNat s.len.toNat s.rowb.toNat s)

/-- `ROWREV`: copies a buffer to another with the order of its rows reversed (rule R111). -/
def execRowrev (s : State) : Host.Outcome State Fault Refusal :=
  .next (runCommand (encode .rowrev) doRowrev s)

/-- A 24-bit pixel with its first and third byte exchanged (rule R115). -/
def swapPixel (p : Rgb24) : Rgb24 := ⟨p.b2, p.b1, p.b0⟩

/-- The loop of `DoSwaprb`: pixel `k` is read whole before it is written (rule R116). -/
def swaprbLoop (src dst n : Nat) (s : State) : State :=
  forUpTo n (fun k s => s.setRgb (dst + 3 * k) (swapPixel (s.rgbAt (src + 3 * k)))) s

/-- `DoSwaprb` (rule R116). -/
def doSwaprb (s : State) : Except CommandError State :=
  match checkBuffers s s.rgbBytes s.rgbBytes with
  | .error e => .error e
  | .ok _ => .ok (swaprbLoop s.src.toNat s.dst.toNat s.len.toNat s)

/-- `SWAPRB`: copies a 24-bit buffer to another with red and blue exchanged (rule R116). -/
def execSwaprb (s : State) : Host.Outcome State Fault Refusal :=
  .next (runCommand (encode .swaprb) doSwaprb s)

end Sys2Proof.Machine
end

