-- ==== Sys2Proof/Machine/Checksum.lean ====
section
/-! DEFINITION. The byte-sum checksum and `SUM` (41_checksum.md). -/

namespace Sys2Proof.Machine

/-- `bytesum(B)`: the arithmetic sum of every byte treated as unsigned, modulo 2^32 (rule R100). -/
def bytesum (bytes : List Byte) : Nat := (bytes.map (·.toNat)).sum % 2 ^ 32

/-- The accumulator after the first `n` bytes from `base`, from `acc`: the loop of `DoSum` (rule R101). -/
def sumLoop (s : State) (base n : Nat) (acc : Word) : Word :=
  forUpTo n (fun i acc => acc + zext32 (s.byteAt (base + i))) acc

/-- `DoSum` (rule R101). -/
def doSum (s : State) : Except CommandError State :=
  match checkSource s s.lenBytes with
  | .error e => .error e
  | .ok _ => .ok { s with csum := sumLoop s s.src.toNat s.lenBytes s.csum }

/-- `SUM`: adds the bytes of a buffer into the accumulator (rule R101). -/
def execSum (s : State) : Host.Outcome State Fault Refusal :=
  .next (runCommand (encode .sum) doSum s)

end Sys2Proof.Machine
end

