-- ==== Sys2Proof/Machine/Convert.lean ====
section
/-! DEFINITION. Channel depth conversion: the function `convert` and the command `CONV` (43_convert.md). -/

namespace Sys2Proof.Machine

/-- `convert(c, s, d) = (c * (2^d - 1)) div (2^s - 1)`, formed in full and divided once (rule R125). The rule
defines it for s >= 1, d >= 1 and c <= 2^s - 1; no command uses it elsewhere (DESIGN CHOICE, safe:
notes/assumptions/6.md). -/
def convert (c s d : Nat) : Nat := c * (2 ^ d - 1) / (2 ^ s - 1)

/-- `DoConv(s, d)` (rule R127). -/
def doConv (sbits dbits : Nat) (s : State) : Except CommandError State :=
  match checkConvert s sbits dbits with
  | .error e => .error e
  | .ok _ => .ok { s with res := BitVec.ofNat 32 (convert s.opa.toNat sbits dbits) }

/-- `CONV s, d`: converts the channel value in `OPA` from `s` bits to `d` bits into `RES` (rule R127). -/
def execConv (sbits dbits : BitVec 4) (s : State) : Host.Outcome State Fault Refusal :=
  .next (runCommand (encode (.conv sbits dbits)) (doConv sbits.toNat dbits.toNat) s)

end Sys2Proof.Machine
end

