-- ==== Sys2Proof/Machine/Nop.lean ====
section
/-! DEFINITION. `NOP` (40_command_execution.md rule R86). -/

namespace Sys2Proof.Machine

/-- `NOP`: nothing between `DONE <- 0` and `DONE <- 1`; it never fails (rule R86). -/
def execNop (s : State) : Host.Outcome State Fault Refusal :=
  .next (runCommand (encode .nop) .ok s)

end Sys2Proof.Machine
end

