-- ==== Sys2Proof/Machine/Pixel.lean ====
section
/-! DEFINITION. Packing 24-bit pixels to 5-6-5 and unpacking them: `PACK` and `UNPACK` (44_pack_unpack.md),
each beside the function on byte sequences it computes. -/

namespace Sys2Proof.Machine

/-- `pack565(r8, g8, b8)`: red in bits 15:11, green in bits 10:5, blue in bits 4:0, each narrowed with
`convert` and not by dropping low bits (rule R135, 90_conflicts.md C1). -/
def pack565 (c : Channels) : Pixel :=
  BitVec.ofNat 16
    ((convert c.r8.toNat 8 5 <<< 11) ||| (convert c.g8.toNat 8 6 <<< 5) ||| convert c.b8.toNat 8 5)

/-- The red field `p[15:11]` (rule R136). -/
def redField (p : Pixel) : Nat := (p.extractLsb' 11 5).toNat

/-- The green field `p[10:5]` (rule R136). -/
def greenField (p : Pixel) : Nat := (p.extractLsb' 5 6).toNat

/-- The blue field `p[4:0]` (rule R136). -/
def blueField (p : Pixel) : Nat := (p.extractLsb' 0 5).toNat

/-- `unpack565(p)`: each field widened with `convert` (rule R136). -/
def unpack565 (p : Pixel) : Channels :=
  ⟨BitVec.ofNat 8 (convert (redField p) 5 8),
   BitVec.ofNat 8 (convert (greenField p) 6 8),
   BitVec.ofNat 8 (convert (blueField p) 5 8)⟩

/-- The bytes `PACK` makes of a sequence of 24-bit pixels: two a pixel, high byte first (rule R138). Bytes left over
make none, here and in `unpackBytes` (DESIGN CHOICE, safe: notes/assumptions/10.md). -/
def packBytes (o : ChannelOrder) : List Byte → List Byte
  | b0 :: b1 :: b2 :: rest =>
    let p := pack565 (channelsOf o ⟨b0, b1, b2⟩)
    p.extractLsb' 8 8 :: p.extractLsb' 0 8 :: packBytes o rest
  | _ => []

/-- The bytes `UNPACK` makes of a sequence of 16-bit pixels, high byte first: three a pixel (rule R140). -/
def unpackBytes (o : ChannelOrder) : List Byte → List Byte
  | hi :: lo :: rest =>
    let p := bytesOf o (unpack565 (hi ++ lo))
    p.b0 :: p.b1 :: p.b2 :: unpackBytes o rest
  | _ => []

/-- The loop of `DoPack` (rule R138). -/
def packLoop (src dst n : Nat) (s : State) : State :=
  forUpTo n
    (fun k s => s.setPixel (dst + 2 * k) (pack565 (channelsOf s.order (s.rgbAt (src + 3 * k))))) s

/-- `DoPack` (rule R138). -/
def doPack (s : State) : Except CommandError State :=
  match checkBuffers s s.rgbBytes s.packedBytes with
  | .error e => .error e
  | .ok _ => .ok (packLoop s.src.toNat s.dst.toNat s.len.toNat s)

/-- `PACK`: converts a buffer of 24-bit pixels to 16-bit 5-6-5 pixels (rule R138). -/
def execPack (s : State) : Host.Outcome State Fault Refusal :=
  .next (runCommand (encode .pack) doPack s)

/-- The loop of `DoUnpack` (rule R140). -/
def unpackLoop (src dst n : Nat) (s : State) : State :=
  forUpTo n
    (fun k s => s.setRgb (dst + 3 * k) (bytesOf s.order (unpack565 (s.pixelAt (src + 2 * k))))) s

/-- `DoUnpack` (rule R140). -/
def doUnpack (s : State) : Except CommandError State :=
  match checkBuffers s s.packedBytes s.rgbBytes with
  | .error e => .error e
  | .ok _ => .ok (unpackLoop s.src.toNat s.dst.toNat s.len.toNat s)

/-- `UNPACK`: converts a buffer of 16-bit 5-6-5 pixels to 24-bit pixels (rule R140). -/
def execUnpack (s : State) : Host.Outcome State Fault Refusal :=
  .next (runCommand (encode .unpack) doUnpack s)

end Sys2Proof.Machine
end

