-- ==== Sys2Proof/Machine/Dispatch.lean ====
section
/-! DEFINITION. One arm per command: the `case` of 40_command_execution.md rule R83. -/

namespace Sys2Proof.Machine

/-- What a legal command does when its word is written to `CMD`, dropping included. -/
def exec (i : Instr) (s : State) : Host.Outcome State Fault Refusal :=
  match i with
  | .nop => Sys2Proof.Machine.execNop s
  | .sum => Sys2Proof.Machine.execSum s
  | .rowrev => Sys2Proof.Machine.execRowrev s
  | .swaprb => Sys2Proof.Machine.execSwaprb s
  | .conv sbits dbits => Sys2Proof.Machine.execConv sbits dbits s
  | .pack => Sys2Proof.Machine.execPack s
  | .unpack => Sys2Proof.Machine.execUnpack s

end Sys2Proof.Machine
end

