-- ==== Sys2Proof/Machine/Transact.lean ====
section
/-! DEFINITION. The effect of each host transaction (40_command_execution.md rules R80 to R83, R88) and of a
command word written to `CMD`. Machine/Step.lean only takes the next transaction and calls `transact`. -/

namespace Sys2Proof.Machine

/-- `Execute(w)` for a word that is no legal command: dropped while `ERR` = 1, else `raise Error(1, 0)`
(rule R83, 60_exceptions.md rule R152). -/
def execIllegal (w : Word) (s : State) : Host.Outcome State Fault Refusal :=
  .next (runCommand w (fun _ => .error ⟨.illegal, 0⟩) s)

/-- `Execute(w)`, the effect of `RegWrite(0x0C, w)` (rule R83). -/
def execute (w : Word) (s : State) : Host.Outcome State Fault Refusal :=
  match decode w with
  | .ok i => exec i s
  | .error _ => execIllegal w s

/-- The answer of a read, kept on the host's side. -/
def State.answer (s : State) (r : Reply) : State := { s with replies := r :: s.replies }

/-- `RegWrite(off, v)` at an offset of the window (rule R82). -/
def writeOffset (off : Nat) (v : Word) (s : State) : Host.Outcome State Fault Refusal :=
  match RegName.ofOffset off with
  | some .cmd => execute v s
  | some r => .next (s.writeReg r v)
  | none => .next s

/-- One host transaction (rule R80). One whose arguments are outside rule R80's ranges is no step of the
machine and is refused (DESIGN CHOICE, safe: notes/assumptions/8.md). -/
def transact (t : Transaction) (s : State) : Host.Outcome State Fault Refusal :=
  match t with
  | .regRead off =>
    if validOffset off then .next (s.answer (.reg (s.readOffset off)))
    else .refused .undefinedRegisterAccess
  | .regWrite off v =>
    if validOffset off then writeOffset off v s
    else .refused .undefinedRegisterAccess
  | .bufRead a =>
    if a < s.memSize then .next (s.answer (.byte (s.byteAt a)))
    else .refused .invalidBufferAccess
  | .bufWrite a b =>
    if a < s.memSize then .next (s.setByte a b)
    else .refused .invalidBufferAccess
  | .reset => .next s.resetRegisters

/-- Take the next transaction from the host, or none when it has none to make. -/
def nextTransaction (s : State) : Option (Transaction × State) :=
  match s.script with
  | [] => none
  | t :: rest => some (t, { s with script := rest })

/-- Put a transaction where the host makes it next. -/
def State.issue (s : State) (t : Transaction) : State := { s with script := t :: s.script }

end Sys2Proof.Machine
end

