-- ==== Sys2Proof/Machine/Step.lean ====
section
/-! DEFINITION. One step: the host's next transaction, whole (40_command_execution.md rule R80, 20_memory.md
rule R50). -/

namespace Sys2Proof.Machine

/-- One step of the machine. Steps are totally ordered and each completes before the next starts (rule R80);
when the host makes no transaction the machine takes no step. A command is one step: nothing the platform may do
while it runs is in the model (DEDUCED, unsafe: notes/assumptions/9.md). -/
def step (s : State) : Host.Outcome State Fault Refusal :=
  match nextTransaction s with
  | none => .fault .hostIdle
  | some (t, s) => transact t s

/-- The state in which the host's next transaction writes the command word `w` to `CMD`: the block fetches
nothing, and a command is the data of that write (10_state.md rule R20; notes/assumptions/1.md). -/
def State.withFetchWord (s : State) (_nbits w : Nat) : State :=
  s.issue (.command (BitVec.ofNat 32 w))

end Sys2Proof.Machine
end

