-- ==== Sys2Proof/Machine/Script.lean ====
section
/-! DEFINITION. The host's script statements and pseudo-statements, and the host transactions each stands for
(30_encoding.md rules R70, R71). Their text form is read by Machine/Assembler.lean. -/

namespace Sys2Proof.Machine

/-- A script statement: the primitive ones of rule R70, then the pseudo-statements of rule R71. -/
inductive Stmt where
  | wr (r : RegName) (v : Word)
  | rd (r : RegName)
  | cmd (i : Instr)
  | cmdWord (w : Word)
  | mw (a : Nat) (bytes : List Byte)
  | mr (a n : Nat)
  | reset
  | clrsum
  | ack
  | ackerr
  | order (o : ChannelOrder)
  | sumBuf (a n : Word)
  | rowrevBuf (s d rows rowb : Word)
  | swaprbBuf (s d n : Word)
  | packBuf (s d n : Word)
  | unpackBuf (s d n : Word)
  | convVal (c : Word) (sbits dbits : BitVec 4)
deriving DecidableEq, Repr

/-- `RegWrite(offset(REG), v)`. -/
def writeTo (r : RegName) (v : Word) : Transaction := .regWrite r.offset v

/-- `BufWrite(a, b0)`, `BufWrite(a+1, b1)`, ..., in that order (rule R70). -/
def writeBytes : Nat → List Byte → List Transaction
  | _, [] => []
  | a, b :: bs => .bufWrite a b :: writeBytes (a + 1) bs

/-- `BufRead(a)`, ..., `BufRead(a+n-1)` (rule R70). -/
def readBytes (a n : Nat) : List Transaction := (List.range n).map (fun i => .bufRead (a + i))

/-- `CTRL.ORDER` as the value written to `CTRL`: `order bgr` is `wr CTRL, 0`, `order rgb` is `wr CTRL, 1`. -/
def ChannelOrder.value : ChannelOrder → Word
  | .bgr => 0
  | .rgb => 1

/-- The transactions a statement stands for, in order (rules R70, R71). -/
def Stmt.expand : Stmt → List Transaction
  | .wr r v => [writeTo r v]
  | .rd r => [.regRead r.offset]
  | .cmd i => [.command (encode i)]
  | .cmdWord w => [.command w]
  | .mw a bytes => writeBytes a bytes
  | .mr a n => readBytes a n
  | .reset => [.reset]
  | .clrsum => [writeTo .csum 0]
  | .ack => [writeTo .status 0x3]
  | .ackerr => [writeTo .status 0x2]
  | .order o => [writeTo .ctrl o.value]
  | .sumBuf a n => [writeTo .src a, writeTo .len n, .command (encode .sum)]
  | .rowrevBuf s d rows rowb =>
    [writeTo .src s, writeTo .dst d, writeTo .len rows, writeTo .rowb rowb, .command (encode .rowrev)]
  | .swaprbBuf s d n => [writeTo .src s, writeTo .dst d, writeTo .len n, .command (encode .swaprb)]
  | .packBuf s d n => [writeTo .src s, writeTo .dst d, writeTo .len n, .command (encode .pack)]
  | .unpackBuf s d n => [writeTo .src s, writeTo .dst d, writeTo .len n, .command (encode .unpack)]
  | .convVal c sbits dbits => [writeTo .opa c, .command (encode (.conv sbits dbits))]

/-- The transactions of a whole script. -/
def expandAll (stmts : List Stmt) : List Transaction := stmts.flatMap Stmt.expand

/-- The state in which the host goes on to make a script's transactions. -/
def State.load (s : State) (stmts : List Stmt) : State := { s with script := s.script ++ expandAll stmts }

end Sys2Proof.Machine
end

