-- ==== Sys2Proof/Safety.lean ====
section
/-! DEFINITION. What claims are stated in: the invariants of 10_state.md rule R34, and the runs that a claim
may be made about, those that end with `STATUS.ERR` = 0 (60_exceptions.md rule R159). -/

namespace Sys2Proof.Machine

/-- The registers are as rule R34 (d) to (g) says, with rule R28 on `FCMD`. Rule R34 (a) to (c) hold of every
state, by what a register read returns. -/
structure State.RegistersOk (s : State) : Prop where
  /-- R34 (d): no error recorded, nothing in the record. -/
  noError : s.err = false → s.ecode = 0 ∧ s.faddr = 0 ∧ s.fcmd = 0
  /-- R34 (e): an error has a code of 1 to 4 and leaves `DONE` = 0. -/
  error : s.err = true → s.done = false ∧ (s.ecode = 1 ∨ s.ecode = 2 ∨ s.ecode = 3 ∨ s.ecode = 4)
  /-- R28: `FCMD` is nonzero whenever `ERR` = 1. -/
  failedWord : s.err = true → s.fcmd ≠ 0
  /-- R34 (f). -/
  result : s.res.toNat < 256
  /-- R34 (g): only a range error may leave `FADDR` nonzero. -/
  failedBase : s.faddr ≠ 0 → s.err = true ∧ s.ecode = 3

/-- The commands that have a source range and no destination range, or both (60_exceptions.md rule R151). -/
def hasRange : Instr → Bool
  | .sum => true
  | .rowrev => true
  | .swaprb => true
  | .pack => true
  | .unpack => true
  | .nop => false
  | .conv _ _ => false

/-- The commands that have a source range and a destination range (rule R151). -/
def hasTwoRanges : Instr → Bool
  | .rowrev => true
  | .swaprb => true
  | .pack => true
  | .unpack => true
  | .sum => false
  | .nop => false
  | .conv _ _ => false

/-- The recorded code is one that the recorded word can raise (rule R151, column "Commands that can raise it"). -/
structure State.RecordOk (s : State) : Prop where
  illegal : s.ecode = 1 → ∃ e, decode s.fcmd = .error e
  param : s.ecode = 2 → ∃ sb db, decode s.fcmd = .ok (.conv sb db)
  range : s.ecode = 3 → ∃ i, decode s.fcmd = .ok i ∧ hasRange i = true
  overlap : s.ecode = 4 → ∃ i, decode s.fcmd = .ok i ∧ hasTwoRanges i = true

/-- The buffer memory is in its canonical form (DESIGN CHOICE: notes/assumptions/2.md) and holds valid addresses only
(20_memory.md rule R41). -/
structure State.MemoryOk (s : State) : Prop where
  canonical : s.mem.wf
  valid : ∀ c ∈ s.mem, c.1 < s.memSize

/-- The invariant of the machine. -/
structure State.Inv (s : State) : Prop where
  registers : s.RegistersOk
  record : s.RecordOk
  memory : s.MemoryOk

/-- `k` steps of the machine from `s` end in `t`. -/
def runsTo (k : Nat) (s t : State) : Prop := Host.Core.run core k s = .next t

/-- A safe run: it ends with no error recorded. "A claim about a run is made under the premise `STATUS.ERR` = 0
at the end" (rule R159). -/
def safeRun (k : Nat) (s t : State) : Prop := runsTo k s t ∧ t.err = false

/-- The transactions that clear an error: a write to `STATUS` with bit 1 set, and `Reset` (rules R159, R160). -/
def Transaction.clearsError : Transaction → Bool
  | .regWrite off v => off == RegName.status.offset && v.getLsbD 1
  | .reset => true
  | .regRead _ => false
  | .bufRead _ => false
  | .bufWrite _ _ => false

/-! The words the statements about commands are written in, apart from the model's own checks. -/

/-- The byte range [base, base + n) is wholly inside buffer memory, or empty (20_memory.md rule R46). -/
def State.fits (s : State) (base : Word) (n : Nat) : Prop := n = 0 ∨ base.toNat + n ≤ s.memSize

/-- The byte ranges [a, a + na) and [b, b + nb) are not empty and intersect (20_memory.md rule R47). -/
def meets (a : Word) (na : Nat) (b : Word) (nb : Nat) : Prop :=
  0 < na ∧ 0 < nb ∧ a.toNat < b.toNat + nb ∧ b.toNat < a.toNat + na

/-- The address `a` is not in the byte range [base, base + n). -/
def outsideRange (a base n : Nat) : Prop := a < base ∨ base + n ≤ a

/-- The state a failing command leaves: `DONE` = 0, `ERR` = 1, the code, `FADDR` and `FCMD`, and nothing else
changed (60_exceptions.md rules R157, R158). -/
def State.failed (s : State) (w : Word) (code : BitVec 4) (info : Word) : State :=
  { s with done := false, err := true, ecode := code, faddr := info, fcmd := w }

/-- What a command with a source range of `sn` bytes and a destination range of `dn` bytes answers from a state
with `ERR` = 0: the first check that fails, in the order of 60_exceptions.md rule R156, or a next state in which
`DONE` is set, only memory has changed, only bytes of the destination range have, and `written` holds. -/
def answersAsBufferCommand (s : State) (w : Word) (sn dn : Nat) (o : Host.Outcome State Fault Refusal)
    (written : State → Prop) : Prop :=
  (¬ s.fits s.src sn → o = .next (s.failed w 3 s.src)) ∧
  (s.fits s.src sn → ¬ s.fits s.dst dn → o = .next (s.failed w 3 s.dst)) ∧
  (s.fits s.src sn → s.fits s.dst dn → meets s.src sn s.dst dn → o = .next (s.failed w 4 0)) ∧
  (s.fits s.src sn → s.fits s.dst dn → ¬ meets s.src sn s.dst dn →
    ∃ t, o = .next t ∧ t = { s with done := true, mem := t.mem } ∧
      (∀ a, outsideRange a s.dst.toNat dn → t.byteAt a = s.byteAt a) ∧ written t)

/-- The number of bytes a command reads from `SRC` on (41_checksum.md, 42_buffer.md, 44_pack_unpack.md): none for the
two commands that touch no memory. -/
def sourceBytes (i : Instr) (s : State) : Nat :=
  match i with
  | .nop => 0
  | .sum => s.lenBytes
  | .rowrev => s.rowBytes
  | .swaprb => s.rgbBytes
  | .conv _ _ => 0
  | .pack => s.rgbBytes
  | .unpack => s.packedBytes

/-- The number of bytes a command stores at `DST` (42_buffer.md, 44_pack_unpack.md): none but for the four
commands that have a destination range. -/
def destinationBytes (i : Instr) (s : State) : Nat :=
  match i with
  | .nop => 0
  | .sum => 0
  | .rowrev => s.rowBytes
  | .swaprb => s.rgbBytes
  | .conv _ _ => 0
  | .pack => s.packedBytes
  | .unpack => s.rgbBytes

end Sys2Proof.Machine
end

