-- ==== Sys2Proof/Certificates/Slice0/Obligations.lean ====
section
/-! DEFINITION. The statements for the provers, each from the numbered rules of the spec it names. -/

open Sys2Proof Sys2Proof.Machine

/-! Encoding (30_encoding.md). -/

/-- Rules R62 to R64, both ways: a word decodes to a command exactly when it is that command's word. -/
def Obligations.DecodeInvertsEncode : Prop :=
  ∀ (w : Word) (i : Instr), decode w = .ok i ↔ w = encode i

/-- Rule R64's table: a word is legal exactly when it selects a row, the row of its own mnemonic, and no word selects
two rows. -/
def Obligations.DecodeAgreesWithOpcodeTable : Prop :=
  (∀ w : Word, (∃ i, decode w = .ok i) ↔ wellFormedWord w = true) ∧
  (∀ (w : Word) (i : Instr), decode w = .ok i →
    ∃ r ∈ opcodeRows, r.mnemonic = i.mnemonic ∧ r.selects w = true) ∧
  (∀ w : Word, ∀ r₁ ∈ opcodeRows, ∀ r₂ ∈ opcodeRows, r₁.selects w = true → r₂.selects w = true → r₁ = r₂)

/-- Rule R66, the spec's inference from rule R64: the legal words are the six words of Format Z and the 256 words
0x0000_ds04, 262 in all. -/
def Obligations.LegalWordsAreTheListed : Prop :=
  (∀ w : Word, (∃ i, decode w = .ok i) ↔
    (w ∈ ([0x0, 0x1, 0x2, 0x3, 0x5, 0x6] : List Word) ∨
      ∃ d s : Nat, d < 16 ∧ s < 16 ∧ w.toNat = d * 4096 + s * 256 + 4)) ∧
  (∃ ws : List Word, ws.length = 262 ∧ ws.Nodup ∧ ∀ w, w ∈ ws ↔ ∃ i, decode w = .ok i)

/-- Rule R63, Format C: the words `(DBITS << 12) | (SBITS << 8) | 4` are those of `CONV`, with any two widths, and of
no other command. -/
def Obligations.ConvWordCarriesBothWidths : Prop :=
  ∀ (w : Word) (sb db : BitVec 4),
    decode w = .ok (.conv sb db) ↔ w.toNat = db.toNat * 2 ^ 12 + sb.toNat * 2 ^ 8 + 4

/-- Words written out from rules R62, R63 and 43_convert.md rule R127, and illegal ones from rule R67. -/
def Obligations.SampleWordsDecode : Prop :=
  decode 0x00000000 = .ok .nop ∧ decode 0x00000001 = .ok .sum ∧ decode 0x00000002 = .ok .rowrev ∧
  decode 0x00000003 = .ok .swaprb ∧ decode 0x00005804 = .ok (.conv 8 5) ∧
  decode 0x00008604 = .ok (.conv 6 8) ∧ decode 0x00000005 = .ok .pack ∧ decode 0x00000006 = .ok .unpack ∧
  decode 0x00000007 = .error .reservedOpcode ∧ decode 0x00000014 = .error .reservedBits ∧
  decode 0x00010004 = .error .reservedBits ∧ decode 0x00005805 = .error .widthFields

/-! The host's transactions (40_command_execution.md). -/

/-- Rule R83: a legal word written to `CMD` runs the command it decodes to, on the state left by the previous
transaction; `withFetchWord` puts such a write next (the model's choice, notes/assumptions/1.md). -/
def Obligations.StepRunsTheDecodedCommand : Prop :=
  (∀ (s : State) (rest : List Transaction) (w : Word) (i : Instr),
    s.script = .regWrite 0x0C w :: rest → decode w = .ok i → step s = exec i { s with script := rest }) ∧
  (∀ (s : State) (nbits w : Nat) (i : Instr),
    decode (BitVec.ofNat 32 w) = .ok i → step (s.withFetchWord nbits w) = exec i s)

/-- Rule R152: the four kinds of word that are illegal, and what such a word leaves: code 1, `FADDR` = 0, `FCMD` the
word, no other register and no memory changed. -/
def Obligations.IllegalWordIsRecorded : Prop :=
  ∀ (s : State) (rest : List Transaction) (w : Word),
    s.script = .regWrite 0x0C w :: rest → s.err = false →
    (w.toNat / 2 ^ 16 ≠ 0 ∨ w.toNat / 16 % 16 ≠ 0 ∨ 7 ≤ w.toNat % 16 ∨
      (w.toNat % 16 ≠ 4 ∧ w.toNat / 256 % 256 ≠ 0)) →
    step s = .next ({ s with script := rest }.failed w 1 0)

/-- Rules R64 and R152: those four kinds of word are all the illegal ones. -/
def Obligations.IllegalWordsAreTheFourKinds : Prop :=
  ∀ w : Word, (∃ e, decode w = .error e) ↔
    (w.toNat / 2 ^ 16 ≠ 0 ∨ w.toNat / 16 % 16 ≠ 0 ∨ 7 ≤ w.toNat % 16 ∨
      (w.toNat % 16 ≠ 4 ∧ w.toNat / 256 % 256 ≠ 0))

/-- 60_exceptions.md rule R159: while `ERR` = 1 every word written to `CMD`, legal or not, is dropped and no state
changes; the transaction itself is taken off the host's script. -/
def Obligations.CommandIsDroppedAfterAnError : Prop :=
  ∀ (s : State) (rest : List Transaction) (w : Word),
    s.script = .regWrite 0x0C w :: rest → s.err = true → step s = .next { s with script := rest }

/-- Rule R81: what a host read of each offset returns; nothing else changes but the host's record of answers. -/
def Obligations.RegisterReadReturns : Prop :=
  ∀ (s : State) (rest : List Transaction) (off : Nat),
    s.script = .regRead off :: rest → off % 4 = 0 → off < 256 →
    step s = .next { s with
      script := rest
      replies := .reg (
        if off = 0x00 then 0x43353635
        else if off = 0x04 then (if s.order = .rgb then 1 else 0)
        else if off = 0x08 then
          BitVec.ofNat 32 (s.ecode.toNat * 16 + (if s.err then 2 else 0) + (if s.done then 1 else 0))
        else if off = 0x10 then s.src
        else if off = 0x14 then s.dst
        else if off = 0x18 then s.len
        else if off = 0x1C then s.rowb
        else if off = 0x20 then s.opa
        else if off = 0x24 then s.res
        else if off = 0x28 then s.csum
        else if off = 0x2C then s.faddr
        else if off = 0x30 then s.fcmd
        else 0) :: s.replies }

/-- Rule R82: what a host write at each offset does, whether or not `ERR` is set. -/
def Obligations.RegisterWriteDoes : Prop :=
  ∀ (s : State) (rest : List Transaction) (off : Nat) (v : Word),
    s.script = .regWrite off v :: rest → off % 4 = 0 → off < 256 →
    step s =
      (if off = 0x04 then .next { s with script := rest, order := if v.toNat % 2 = 1 then .rgb else .bgr }
      else if off = 0x08 then
        .next { s with
          script := rest
          done := if v.toNat % 2 = 1 then false else s.done
          err := if v.toNat / 2 % 2 = 1 then false else s.err
          ecode := if v.toNat / 2 % 2 = 1 then 0 else s.ecode
          faddr := if v.toNat / 2 % 2 = 1 then 0 else s.faddr
          fcmd := if v.toNat / 2 % 2 = 1 then 0 else s.fcmd }
      else if off = 0x0C then execute v { s with script := rest }
      else if off = 0x10 then .next { s with script := rest, src := v }
      else if off = 0x14 then .next { s with script := rest, dst := v }
      else if off = 0x18 then .next { s with script := rest, len := v }
      else if off = 0x1C then .next { s with script := rest, rowb := v }
      else if off = 0x20 then .next { s with script := rest, opa := v }
      else if off = 0x28 then .next { s with script := rest, csum := v }
      else .next { s with script := rest })

/-- 60_exceptions.md rule R160: a write to `STATUS` with bit 1 set makes `ERR`, `ECODE`, `FADDR` and `FCMD` zero and
restores nothing else; `DONE` goes by bit 0 alone. -/
def Obligations.AcknowledgeClearsTheError : Prop :=
  ∀ (s : State) (rest : List Transaction) (v : Word),
    s.script = .regWrite 0x08 v :: rest → v.toNat / 2 % 2 = 1 →
    step s = .next { s with
      script := rest, err := false, ecode := 0, faddr := 0, fcmd := 0
      done := if v.toNat % 2 = 1 then false else s.done }

/-- 10_state.md rule R29: unmapped offsets read as 0 and ignore writes, a write to a read-only register is ignored,
and an access at an offset that is no multiple of 4 or is outside the window is given no meaning. -/
def Obligations.OddRegisterAccesses : Prop :=
  (∀ (s : State) (rest : List Transaction) (off : Nat), s.script = .regRead off :: rest →
    off % 4 = 0 → 0x34 ≤ off → off < 256 →
    step s = .next { s with script := rest, replies := .reg 0 :: s.replies }) ∧
  (∀ (s : State) (rest : List Transaction) (off : Nat) (v : Word), s.script = .regWrite off v :: rest →
    off % 4 = 0 → (off = 0x00 ∨ off = 0x24 ∨ off = 0x2C ∨ off = 0x30 ∨ (0x34 ≤ off ∧ off < 256)) →
    step s = .next { s with script := rest }) ∧
  (∀ (s : State) (rest : List Transaction) (off : Nat) (v : Word),
    (s.script = .regRead off :: rest ∨ s.script = .regWrite off v :: rest) → (off % 4 ≠ 0 ∨ 256 ≤ off) →
    step s = .refused .undefinedRegisterAccess)

/-- Rule R88: the host's own loads and stores of bytes at valid addresses, whatever `STATUS` holds; at an invalid
address the model refuses them. -/
def Obligations.HostLoadsAndStoresBytes : Prop :=
  (∀ (s : State) (rest : List Transaction) (a : Nat), s.script = .bufRead a :: rest → a < s.memSize →
    step s = .next { s with script := rest, replies := .byte (s.byteAt a) :: s.replies }) ∧
  (∀ (s : State) (rest : List Transaction) (a : Nat) (b : Byte),
    s.script = .bufWrite a b :: rest → a < s.memSize →
    ∃ t, step s = .next t ∧ t = { s with script := rest, mem := t.mem } ∧ t.byteAt a = b ∧
      ∀ c, c ≠ a → t.byteAt c = s.byteAt c) ∧
  (∀ (s : State) (rest : List Transaction) (a : Nat) (b : Byte),
    (s.script = .bufRead a :: rest ∨ s.script = .bufWrite a b :: rest) → s.memSize ≤ a →
    step s = .refused .invalidBufferAccess)

/-- Rule R80, with the model's choice of assumption 1: every step takes exactly the host's next transaction, and when
the host has none to make there is no step; no step changes `MEM_SIZE`; no other step than a read answers the host. -/
def Obligations.StepTakesOneTransaction : Prop :=
  (∀ s : State, s.script = [] → step s = .fault .hostIdle) ∧
  (∀ s t : State, step s = .next t →
    ∃ tr, s.script = tr :: t.script ∧ t.memTop = s.memTop ∧
      ((∃ off v, tr = .regRead off ∧ t.replies = .reg v :: s.replies) ∨
       (∃ a b, tr = .bufRead a ∧ t.replies = .byte b :: s.replies) ∨
       ((∀ off, tr ≠ .regRead off) ∧ (∀ a, tr ≠ .bufRead a) ∧ t.replies = s.replies)))

/-- Rule R80: with a transaction to make, the machine stops exactly when its arguments are outside the ranges of the
rule's table, and then refuses it. -/
def Obligations.RefusedExactlyOutsideTheRanges : Prop :=
  ∀ (s : State) (tr : Transaction) (rest : List Transaction), s.script = tr :: rest →
    ((¬ ∃ t, step s = .next t) ↔ tr.valid s.memSize = false) ∧
    (tr.valid s.memSize = false → ∃ r, step s = .refused r)

/-! Reset (70_reset_and_hazards.md). -/

/-- Rule R175: `Reset` makes every register zero but `ID`; with rule R176, the buffer memory is as before. The
platform's `MEM_SIZE` and the host's side are no registers and stay (the model's reading, notes/assumptions/7.md). -/
def Obligations.ResetZeroesTheRegisters : Prop :=
  ∀ (s : State) (rest : List Transaction), s.script = .reset :: rest →
    ∃ t, step s = .next t ∧ (∀ r, t.readReg r = if r = .id then 0x43353635 else 0) ∧
      t.order = .bgr ∧ t.done = false ∧ t.err = false ∧ t.ecode = 0 ∧
      t.mem = s.mem ∧ t.memTop = s.memTop ∧ t.script = rest ∧ t.replies = s.replies

/-- Rule R175 at power-up: the registers of the state the machine starts in. -/
def Obligations.PowerUpRegisters : Prop :=
  ∀ r : RegName, State.reset.readReg r = if r = .id then 0x43353635 else 0

/-- Rule R178, the spec's inference from rule R175: right after `Reset` every command that has a buffer touches no
memory, changes no register but `STATUS`, and succeeds. -/
def Obligations.BufferCommandsAreSafeAfterReset : Prop :=
  ∀ (s : State) (i : Instr), hasRange i = true →
    exec i s.resetRegisters = .next { s.resetRegisters with done := true }

/-! The commands. Each is stated from every state with `ERR` = 0; from a state with `ERR` = 1 it is dropped
(`CommandIsDroppedAfterAnError`). -/

/-- 40_command_execution.md rule R86: `NOP` sets `DONE`, changes nothing else and never fails; written while `ERR` = 1
it is dropped and does not set `DONE`. -/
def Obligations.NopSetsDone : Prop :=
  decode 0x00000000 = .ok .nop ∧
  ∀ s : State, exec .nop s = .next (if s.err then s else { s with done := true })

/-- 41_checksum.md rule R101: `SUM` adds every byte of its range to `CSUM` modulo 2^32, or fails with `RANGE`. -/
def Obligations.SumAddsItsBytes : Prop :=
  decode 0x00000001 = .ok .sum ∧ ∀ s : State, s.err = false →
    (s.fits s.src s.len.toNat →
      ∃ t, exec .sum s = .next t ∧ t = { s with done := true, csum := t.csum } ∧
        t.csum.toNat =
          (s.csum.toNat + ((s.bytesAt s.src.toNat s.len.toNat).map (·.toNat)).sum) % 2 ^ 32) ∧
    (¬ s.fits s.src s.len.toNat → exec .sum s = .next (s.failed 0x1 3 s.src))

/-- 42_buffer.md rule R111: `ROWREV` copies row `rows - 1 - i` of the source to row `i` of the destination. -/
def Obligations.RowrevReversesRows : Prop :=
  decode 0x00000002 = .ok .rowrev ∧ ∀ s : State, s.err = false →
    answersAsBufferCommand s 0x2 (s.len.toNat * s.rowb.toNat) (s.len.toNat * s.rowb.toNat) (exec .rowrev s)
      (fun t => ∀ i j, i < s.len.toNat → j < s.rowb.toNat →
        t.byteAt (s.dst.toNat + i * s.rowb.toNat + j) =
          s.byteAt (s.src.toNat + (s.len.toNat - 1 - i) * s.rowb.toNat + j))

/-- 42_buffer.md rule R116: `SWAPRB` copies each pixel with its first and third byte exchanged. -/
def Obligations.SwaprbExchangesRedAndBlue : Prop :=
  decode 0x00000003 = .ok .swaprb ∧ ∀ s : State, s.err = false →
    answersAsBufferCommand s 0x3 (3 * s.len.toNat) (3 * s.len.toNat) (exec .swaprb s)
      (fun t => ∀ k, k < s.len.toNat →
        t.byteAt (s.dst.toNat + 3 * k) = s.byteAt (s.src.toNat + 3 * k + 2) ∧
        t.byteAt (s.dst.toNat + 3 * k + 1) = s.byteAt (s.src.toNat + 3 * k + 1) ∧
        t.byteAt (s.dst.toNat + 3 * k + 2) = s.byteAt (s.src.toNat + 3 * k))

/-- 43_convert.md rules R127 and R128: `CONV` writes `(c * (2^d - 1)) div (2^s - 1)` to `RES`, or fails with `PARAM`
on a width outside 1 to 8 or an operand above `2^s - 1`, all 32 bits of `OPA` considered. -/
def Obligations.ConvRescalesItsOperand : Prop :=
  ∀ (s : State) (sb db : BitVec 4), s.err = false →
    decode (BitVec.ofNat 32 (db.toNat * 4096 + sb.toNat * 256 + 4)) = .ok (.conv sb db) ∧
    (1 ≤ sb.toNat → sb.toNat ≤ 8 → 1 ≤ db.toNat → db.toNat ≤ 8 → s.opa.toNat ≤ 2 ^ sb.toNat - 1 →
      exec (.conv sb db) s = .next { s with
        done := true
        res := BitVec.ofNat 32 (s.opa.toNat * (2 ^ db.toNat - 1) / (2 ^ sb.toNat - 1)) }) ∧
    ((sb.toNat < 1 ∨ 8 < sb.toNat ∨ db.toNat < 1 ∨ 8 < db.toNat ∨ 2 ^ sb.toNat - 1 < s.opa.toNat) →
      exec (.conv sb db) s =
        .next (s.failed (BitVec.ofNat 32 (db.toNat * 4096 + sb.toNat * 256 + 4)) 2 0))

/-- 44_pack_unpack.md rules R135, R137 and R138: `PACK` narrows the three channels of each pixel, which `CTRL.ORDER`
says how to find, and stores the 16-bit pixel high byte first. -/
def Obligations.PackNarrowsEachPixel : Prop :=
  decode 0x00000005 = .ok .pack ∧ ∀ s : State, s.err = false →
    answersAsBufferCommand s 0x5 (3 * s.len.toNat) (2 * s.len.toNat) (exec .pack s)
      (fun t => ∀ k, k < s.len.toNat →
        let b0 := (s.byteAt (s.src.toNat + 3 * k)).toNat
        let b1 := (s.byteAt (s.src.toNat + 3 * k + 1)).toNat
        let b2 := (s.byteAt (s.src.toNat + 3 * k + 2)).toNat
        let r8 := if s.order = .bgr then b2 else b0
        let b8 := if s.order = .bgr then b0 else b2
        (t.byteAt (s.dst.toNat + 2 * k)).toNat * 256 + (t.byteAt (s.dst.toNat + 2 * k + 1)).toNat =
          r8 * 31 / 255 * 2048 + b1 * 63 / 255 * 32 + b8 * 31 / 255)

/-- 44_pack_unpack.md rules R136, R137 and R140: `UNPACK` widens the three fields of each 16-bit pixel, read high byte
first, and stores the channels in the order `CTRL.ORDER` selects. -/
def Obligations.UnpackWidensEachPixel : Prop :=
  decode 0x00000006 = .ok .unpack ∧ ∀ s : State, s.err = false →
    answersAsBufferCommand s 0x6 (2 * s.len.toNat) (3 * s.len.toNat) (exec .unpack s)
      (fun t => ∀ k, k < s.len.toNat →
        let p := (s.byteAt (s.src.toNat + 2 * k)).toNat * 256 + (s.byteAt (s.src.toNat + 2 * k + 1)).toNat
        let r8 := p / 2048 * 255 / 31
        let g8 := p / 32 % 64 * 255 / 63
        let b8 := p % 32 * 255 / 31
        (t.byteAt (s.dst.toNat + 3 * k)).toNat = (if s.order = .bgr then b8 else r8) ∧
        (t.byteAt (s.dst.toNat + 3 * k + 1)).toNat = g8 ∧
        (t.byteAt (s.dst.toNat + 3 * k + 2)).toNat = (if s.order = .bgr then r8 else b8))

/-- The same four commands over whole buffers: the destination becomes the function of 42_buffer.md rules R110, R115
and 44_pack_unpack.md rules R138, R140 of the source as it was. -/
def Obligations.BufferCommandsComputeTheirFunctions : Prop :=
  ∀ s : State, s.err = false →
    (s.fits s.src s.rowBytes → s.fits s.dst s.rowBytes → ¬ meets s.src s.rowBytes s.dst s.rowBytes →
      ∃ t, exec .rowrev s = .next t ∧ t.bytesAt s.dst.toNat s.rowBytes =
        rowrev (s.bytesAt s.src.toNat s.rowBytes) s.len.toNat s.rowb.toNat) ∧
    (s.fits s.src s.rgbBytes → s.fits s.dst s.rgbBytes → ¬ meets s.src s.rgbBytes s.dst s.rgbBytes →
      ∃ t, exec .swaprb s = .next t ∧
        t.bytesAt s.dst.toNat s.rgbBytes = swaprb (s.bytesAt s.src.toNat s.rgbBytes)) ∧
    (s.fits s.src s.rgbBytes → s.fits s.dst s.packedBytes → ¬ meets s.src s.rgbBytes s.dst s.packedBytes →
      ∃ t, exec .pack s = .next t ∧
        t.bytesAt s.dst.toNat s.packedBytes = packBytes s.order (s.bytesAt s.src.toNat s.rgbBytes)) ∧
    (s.fits s.src s.packedBytes → s.fits s.dst s.rgbBytes → ¬ meets s.src s.packedBytes s.dst s.rgbBytes →
      ∃ t, exec .unpack s = .next t ∧
        t.bytesAt s.dst.toNat s.rgbBytes = unpackBytes s.order (s.bytesAt s.src.toNat s.packedBytes))

/-- 40_command_execution.md rule R85, the spec's inference from rules R46, R47 and R87: a buffer command whose byte
counts are zero touches no memory, leaves every register but `STATUS` alone and completes, whatever `SRC` and `DST`
hold. -/
def Obligations.ZeroLengthCommandsComplete : Prop :=
  ∀ (s : State) (i : Instr), s.err = false → hasRange i = true →
    (s.len = 0 ∨ (i = .rowrev ∧ s.rowb = 0)) → exec i s = .next { s with done := true }

/-! All the commands at once. -/

/-- 40_command_execution.md rule R83: every command, from every state, answers a next state. -/
def Obligations.EveryCommandAnswersANextState : Prop :=
  ∀ (i : Instr) (s : State), ∃ t, exec i s = .next t

/-- 10_state.md rule R12, which infers the first part from rules R13 to R17: no command changes `SRC`, `DST`, `LEN`,
`ROWB`, `OPA` or `CTRL`; only `CONV` changes `RES` and only `SUM` changes `CSUM`; nor does a command change `MEM_SIZE`
or the host's side. -/
def Obligations.CommandsKeepOtherRegisters : Prop :=
  ∀ (i : Instr) (s t : State), exec i s = .next t →
    t.src = s.src ∧ t.dst = s.dst ∧ t.len = s.len ∧ t.rowb = s.rowb ∧ t.opa = s.opa ∧ t.order = s.order ∧
    ((∀ sb db, i ≠ .conv sb db) → t.res = s.res) ∧ (i ≠ .sum → t.csum = s.csum) ∧
    t.memTop = s.memTop ∧ t.script = s.script ∧ t.replies = s.replies

/-- 40_command_execution.md rule R89, "what the block never does": no command changes a byte outside its destination
range, and one that has none changes no byte. -/
def Obligations.CommandsWriteOnlyTheirDestination : Prop :=
  ∀ (i : Instr) (s t : State), exec i s = .next t →
    ∀ a, outsideRange a s.dst.toNat (destinationBytes i s) → t.byteAt a = s.byteAt a

/-- 60_exceptions.md rule R158: a command that fails, its word legal or not, has changed only `STATUS`, `FADDR` and
`FCMD`; one that has not failed has `DONE` = 1 and the record as it was. -/
def Obligations.FailingCommandChangesOnlyTheRecord : Prop :=
  ∀ (w : Word) (s t : State), s.err = false → execute w s = .next t →
    (t.err = true → t = s.failed w t.ecode t.faddr) ∧
    (t.err = false → t.done = true ∧ t.ecode = s.ecode ∧ t.faddr = s.faddr ∧ t.fcmd = s.fcmd)

/-- 10_state.md rule R24, in its inference from rule R83: after a write to `CMD` that was not dropped exactly one of
`DONE` and `ERR` is 1. -/
def Obligations.ExactlyOneFlagAfterACommand : Prop :=
  ∀ (s : State) (rest : List Transaction) (w : Word), s.script = .regWrite 0x0C w :: rest → s.err = false →
    ∃ t, step s = .next t ∧ t.done = !t.err

/-- 10_state.md rule R12, columns "reads": a command does not depend on the registers it does not read. What they hold
does not change what it does to the rest, and it leaves them as they are. -/
def Obligations.CommandsReadOnlyTheirRegisters : Prop :=
  ∀ (s t : State) (o : ChannelOrder) (r d l b p c : Word),
    (exec .nop s = .next t →
      exec .nop { s with order := o, src := r, dst := d, len := l, rowb := b, opa := p, csum := c } =
        .next { t with order := o, src := r, dst := d, len := l, rowb := b, opa := p, csum := c }) ∧
    (exec .sum s = .next t →
      exec .sum { s with order := o, dst := d, rowb := b, opa := p } =
        .next { t with order := o, dst := d, rowb := b, opa := p }) ∧
    (exec .rowrev s = .next t →
      exec .rowrev { s with order := o, opa := p, csum := c } = .next { t with order := o, opa := p, csum := c }) ∧
    (exec .swaprb s = .next t →
      exec .swaprb { s with order := o, rowb := b, opa := p, csum := c } =
        .next { t with order := o, rowb := b, opa := p, csum := c }) ∧
    (∀ sb db, exec (.conv sb db) s = .next t →
      exec (.conv sb db) { s with order := o, src := r, dst := d, len := l, rowb := b, csum := c } =
        .next { t with order := o, src := r, dst := d, len := l, rowb := b, csum := c }) ∧
    (exec .pack s = .next t →
      exec .pack { s with rowb := b, opa := p, csum := c } = .next { t with rowb := b, opa := p, csum := c }) ∧
    (exec .unpack s = .next t →
      exec .unpack { s with rowb := b, opa := p, csum := c } = .next { t with rowb := b, opa := p, csum := c })

/-- 95_test_vectors.md section 3 (8), from 40_command_execution.md rule R87: no command reads a byte outside its
source range. Two states that differ in memory alone, and not inside that range, are answered alike, and the
destination ranges then hold the same bytes. -/
def Obligations.CommandsReadOnlyTheirSourceRange : Prop :=
  ∀ (i : Instr) (s t : State) (m : Memory), s.err = false →
    (∀ a, ¬ outsideRange a s.src.toNat (sourceBytes i s) → { s with mem := m }.byteAt a = s.byteAt a) →
    exec i s = .next t →
    ∃ u, exec i { s with mem := m } = .next u ∧ u = { t with mem := u.mem } ∧
      (t.err = false → ∀ a, ¬ outsideRange a s.dst.toNat (destinationBytes i s) → u.byteAt a = t.byteAt a)

/-! The checksum over several commands (41_checksum.md). -/

/-- Rule R102, with the spec's inferences from rule R100: `bytesum` is additive and does not depend on the order of
the bytes, a byte equal to 0 contributes nothing, and no wrap-around happens for up to 16843009 bytes. -/
def Obligations.BytesumIsAdditive : Prop :=
  (∀ a b : List Byte, bytesum (a ++ b) = (bytesum a + bytesum b) % 2 ^ 32) ∧
  (∀ a b : List Byte, a.Perm b → bytesum a = bytesum b) ∧
  (∀ a : List Byte, bytesum (0 :: a) = bytesum a) ∧
  (∀ a : List Byte, a.length ≤ 16843009 → bytesum a = (a.map (·.toNat)).sum)

/-- Rule R103, the spec's inference from rules R101 and R102: the script that clears `CSUM` and sums one range and
then another leaves `bytesum` of both ranges, one after the other, in `CSUM`, and ends without an error. -/
def Obligations.RunningChecksumOverTwoRanges : Prop :=
  ∀ (s : State) (rest : List Transaction) (a n b m : Word),
    s.script = expandAll [.clrsum, .sumBuf a n, .sumBuf b m] ++ rest → s.err = false →
    s.fits a n.toNat → s.fits b m.toNat →
    ∃ t, safeRun 7 s t ∧ t.script = rest ∧ t.mem = s.mem ∧
      t.csum.toNat = bytesum (s.bytesAt a.toNat n.toNat ++ s.bytesAt b.toNat m.toNat)

/-! The host's script (30_encoding.md rule R70). -/

/-- Rule R70 with 20_memory.md rule R41: the script `mw a, b0 b1 ...` followed by `mr a, n` over the same bytes
answers the bytes written, in order; that the answers stand newest first is the model's choice
(notes/assumptions/1.md). -/
def Obligations.ScriptReadsBackWhatItWrote : Prop :=
  ∀ (s : State) (rest : List Transaction) (a : Nat) (bytes : List Byte),
    s.script = expandAll [.mw a bytes, .mr a bytes.length] ++ rest → a + bytes.length ≤ s.memSize →
    ∃ t, runsTo (bytes.length + bytes.length) s t ∧ t.script = rest ∧
      t.replies = (bytes.map Reply.byte).reverse ++ s.replies

/-! Buffers through two commands (42_buffer.md). -/

/-- Rules R113 and R116, the spec's inferences from rules R110 and R115: row reversal and channel swap are their own
inverses. -/
def Obligations.RowrevAndSwaprbAreInvolutions : Prop :=
  (∀ (bytes : List Byte) (rows rowb : Nat), bytes.length = rows * rowb →
    rowrev (rowrev bytes rows rowb) rows rowb = bytes) ∧
  (∀ (bytes : List Byte) (n : Nat), bytes.length = 3 * n → swaprb (swaprb bytes) = bytes)

/-- Rule R113 on the machine, the spec's inference: `ROWREV` from X to Y and then from Y to a third buffer Z leaves Z
= X. -/
def Obligations.RowrevTwiceRestoresTheBuffer : Prop :=
  ∀ (s : State) (z : Word), s.err = false →
    s.fits s.src s.rowBytes → s.fits s.dst s.rowBytes → s.fits z s.rowBytes →
    ¬ meets s.src s.rowBytes s.dst s.rowBytes → ¬ meets s.dst s.rowBytes z s.rowBytes →
    ∃ t u, exec .rowrev s = .next t ∧ exec .rowrev { t with src := s.dst, dst := z } = .next u ∧
      u.bytesAt z.toNat s.rowBytes = s.bytesAt s.src.toNat s.rowBytes

/-- Rule R117 (a) and (b), the spec's inference: the two channel orders differ by a channel swap. -/
def Obligations.ChannelOrdersDifferBySwap : Prop :=
  (∀ (bytes : List Byte) (n : Nat), bytes.length = 3 * n →
    packBytes .rgb bytes = packBytes .bgr (swaprb bytes) ∧
    packBytes .bgr bytes = packBytes .rgb (swaprb bytes)) ∧
  (∀ (bytes : List Byte) (n : Nat), bytes.length = 2 * n →
    swaprb (unpackBytes .rgb bytes) = unpackBytes .bgr bytes)

/-- Rule R117 (c), the spec's inference: reversing rows commutes with packing, with unpacking and with the channel
swap when a row is a whole number of pixels. -/
def Obligations.RowReversalCommutesWithPixels : Prop :=
  ∀ (o : ChannelOrder) (bytes : List Byte) (rows width : Nat),
    (bytes.length = rows * (3 * width) →
      packBytes o (rowrev bytes rows (3 * width)) = rowrev (packBytes o bytes) rows (2 * width) ∧
      swaprb (rowrev bytes rows (3 * width)) = rowrev (swaprb bytes) rows (3 * width)) ∧
    (bytes.length = rows * (2 * width) →
      unpackBytes o (rowrev bytes rows (2 * width)) = rowrev (unpackBytes o bytes) rows (3 * width))

/-! Conversion and pixels (43_convert.md, 44_pack_unpack.md). -/

/-- Rule R126 (a) to (d), the spec's inference from rule R125, for widths of any size: endpoints, range, monotone,
identity. -/
def Obligations.ConvertKeepsItsProperties : Prop :=
  ∀ s d c c' : Nat, 1 ≤ s → 1 ≤ d → c ≤ 2 ^ s - 1 → c' ≤ c →
    convert 0 s d = 0 ∧ convert (2 ^ s - 1) s d = 2 ^ d - 1 ∧ convert c s d ≤ 2 ^ d - 1 ∧
    convert c' s d ≤ convert c s d ∧ convert c s s = c

/-- Rule R126 (f), the spec's inference: narrowing from 8 bits reaches the destination's maximum from the source's
maximum only. -/
def Obligations.NarrowingMaximumOnlyFromMaximum : Prop :=
  ∀ c : Nat, c ≤ 255 → (convert c 8 5 = 31 ↔ c = 255) ∧ (convert c 8 6 = 63 ↔ c = 255)

/-- Rule R130 (a) to (d), the spec's inference from rule R125: the exact loss of each round trip, and where there is
none. -/
def Obligations.RoundTripLosses : Prop :=
  (∀ c : Nat, c ≤ 255 →
    convert (convert c 8 5) 5 8 ≤ c ∧ c - convert (convert c 8 5) 5 8 ≤ 9 ∧
    (c - convert (convert c 8 5) 5 8 = 9 ↔ c ∈ [41, 74, 115, 148, 189, 222]) ∧
    (convert (convert c 8 5) 5 8 = c ↔ c ∈ [0, 255]) ∧
    convert (convert c 8 6) 6 8 ≤ c ∧ c - convert (convert c 8 6) 6 8 ≤ 4 ∧
    (convert (convert c 8 6) 6 8 = c ↔ c ∈ [0, 85, 170, 255])) ∧
  4 - convert (convert 4 8 6) 6 8 = 4 ∧
  (∀ q : Nat, q ≤ 31 →
    convert (convert q 5 8) 8 5 = if q ∈ [0, 31] then q else q - 1) ∧
  (∀ q : Nat, q ≤ 63 →
    convert (convert q 6 8) 8 6 = if q ∈ [0, 21, 42, 63] then q else q - 1)

/-- Rule R142, the spec's inference: which 16-bit pixels survive being unpacked and packed, and by how much the others
fall. -/
def Obligations.UnpackThenPackLoss : Prop :=
  ∀ p : Pixel,
    (pack565 (unpack565 p) = p ↔
      redField p ∈ [0, 31] ∧ greenField p ∈ [0, 21, 42, 63] ∧ blueField p ∈ [0, 31]) ∧
    redField (pack565 (unpack565 p)) = (if redField p ∈ [0, 31] then redField p else redField p - 1) ∧
    greenField (pack565 (unpack565 p)) =
      (if greenField p ∈ [0, 21, 42, 63] then greenField p else greenField p - 1) ∧
    blueField (pack565 (unpack565 p)) = (if blueField p ∈ [0, 31] then blueField p else blueField p - 1)

/-- Rule R142, the spec's inference: after packing and unpacking each red or blue byte is lower by 0 to 9 and each
green byte by 0 to 4. -/
def Obligations.PackThenUnpackLoss : Prop :=
  ∀ c : Channels,
    (unpack565 (pack565 c)).r8.toNat ≤ c.r8.toNat ∧ c.r8.toNat ≤ (unpack565 (pack565 c)).r8.toNat + 9 ∧
    (unpack565 (pack565 c)).g8.toNat ≤ c.g8.toNat ∧ c.g8.toNat ≤ (unpack565 (pack565 c)).g8.toNat + 4 ∧
    (unpack565 (pack565 c)).b8.toNat ≤ c.b8.toNat ∧ c.b8.toNat ≤ (unpack565 (pack565 c)).b8.toNat + 9

/-- Rules R135 and R136: where the fields of a packed pixel are and what they hold, and what unpacking makes of
them. -/
def Obligations.PackedFieldsAreTheConvertedChannels : Prop :=
  (∀ c : Channels,
    (pack565 c).toNat = convert c.r8.toNat 8 5 * 2048 + convert c.g8.toNat 8 6 * 32 + convert c.b8.toNat 8 5) ∧
  (∀ p : Pixel,
    (unpack565 p).r8.toNat = convert (p.toNat / 2048) 5 8 ∧
    (unpack565 p).g8.toNat = convert (p.toNat / 32 % 64) 6 8 ∧
    (unpack565 p).b8.toNat = convert (p.toNat % 32) 5 8)

/-! Memory (20_memory.md). -/

/-- Rule R44 (a): a 16-bit pixel is stored high byte first, is read back as stored, and no other byte changes. -/
def Obligations.PixelsAreBigEndian : Prop :=
  ∀ (s : State) (a : Nat) (p : Pixel),
    ((s.setPixel a p).byteAt a).toNat = p.toNat / 256 ∧
    ((s.setPixel a p).byteAt (a + 1)).toNat = p.toNat % 256 ∧
    (s.setPixel a p).pixelAt a = p ∧
    ∀ b, b ≠ a → b ≠ a + 1 → (s.setPixel a p).byteAt b = s.byteAt b

/-- Rules R46 and R47: `InRange` and `Overlap`, and that a nonempty range past 2^32 is never in memory. -/
def Obligations.RangeChecksNeverWrap : Prop :=
  (∀ (s : State) (base : Word) (n : Nat),
    (s.inRange base n = true ↔ n = 0 ∨ base.toNat + n ≤ s.memSize) ∧
    (0 < n → 2 ^ 32 < base.toNat + n → s.inRange base n = false)) ∧
  (∀ (a b : Word) (na nb : Nat), overlap a na b nb = true ↔ meets a na b nb)

/-! Invariants: from every state that has one, a step gives a state that has it. -/

/-- The three invariants hold right after reset: the registers' (10_state.md rule R34, the spec's inference), the
error record's (60_exceptions.md rule R151) and the memory's, whose canonical list is the model's choice
(notes/assumptions/2.md) and whose valid addresses are 20_memory.md rule R41's. -/
def Obligations.InvariantsHoldAtReset : Prop := State.reset.Inv

/-- 10_state.md rule R34 (d) to (g), the spec's inference, with rule R28: every step keeps them, from every state that
has them. -/
def Obligations.StepKeepsRegistersCoherent : Prop :=
  ∀ s t : State, s.RegistersOk → step s = .next t → t.RegistersOk

/-- 60_exceptions.md rule R151: the recorded code stays one that the recorded word can raise. -/
def Obligations.StepKeepsErrorRecordCoherent : Prop :=
  ∀ s t : State, s.RecordOk → step s = .next t → t.RecordOk

/-- The buffer memory stays in its canonical form (the model's choice, notes/assumptions/2.md) and holds valid
addresses only: every write of a command that has passed its checks is on a valid address (20_memory.md rule R46). -/
def Obligations.StepKeepsMemoryValid : Prop :=
  ∀ s t : State, s.MemoryOk → step s = .next t → t.MemoryOk

/-- 10_state.md rule R34 (a) to (c), the spec's inference, of every state: `ID` is constant, `CTRL` is 0 or 1, and the
reserved bits of `STATUS` read 0. -/
def Obligations.HardwiredBitsReadAsZero : Prop :=
  ∀ s : State,
    s.readReg .id = 0x43353635 ∧ (s.readReg .ctrl = 0 ∨ s.readReg .ctrl = 1) ∧
    (s.readReg .status).toNat / 256 = 0 ∧ (s.readReg .status).toNat / 4 % 4 = 0

/-! Rules about the whole machine. -/

/-- 60_exceptions.md rule R150: only a write to `CMD` can set `ERR`. -/
def Obligations.OnlyACommandSetsErr : Prop :=
  ∀ s t : State, step s = .next t → s.err = false → t.err = true →
    ∃ w rest, s.script = .regWrite 0x0C w :: rest

/-- 60_exceptions.md rule R159: `ERR` and the record of the first error stay through every step that does not clear
them. -/
def Obligations.ErrorIsStickyThroughAStep : Prop :=
  ∀ (s t : State) (tr : Transaction) (rest : List Transaction),
    s.script = tr :: rest → tr.clearsError = false → step s = .next t → s.err = true →
    t.err = true ∧ t.ecode = s.ecode ∧ t.faddr = s.faddr ∧ t.fcmd = s.fcmd

/-- 60_exceptions.md rule R159 and 70_reset_and_hazards.md rule R182: in a safe run in which the host clears no error,
no command has failed on the way. -/
def Obligations.SafeRunHidesNoError : Prop :=
  ∀ (k : Nat) (s t : State), safeRun k s t → (∀ tr ∈ s.script.take k, tr.clearsError = false) →
    ∀ (j : Nat) (u : State), j ≤ k → runsTo j s u → u.err = false

/-- 10_state.md rules R18 and R19: `CSUM` changes only by `SUM`, a host write to it and `Reset`; `RES` only by `CONV`
and `Reset`. -/
def Obligations.ResultRegistersChangeOnlyByTheirCommands : Prop :=
  ∀ (s t : State) (tr : Transaction) (rest : List Transaction), s.script = tr :: rest → step s = .next t →
    (t.csum ≠ s.csum → tr = .regWrite 0x0C 0x1 ∨ (∃ v, tr = .regWrite 0x28 v) ∨ tr = .reset) ∧
    (t.res ≠ s.res →
      (∃ w sb db, tr = .regWrite 0x0C w ∧ decode w = .ok (.conv sb db)) ∨ tr = .reset)

/-- 10_state.md rule R31: a byte of memory changes only by the host's store to it and by `ROWREV`, `SWAPRB`, `PACK`
and `UNPACK`. -/
def Obligations.MemoryChangesOnlyByItsWriters : Prop :=
  ∀ (s t : State) (tr : Transaction) (rest : List Transaction) (a : Nat),
    s.script = tr :: rest → step s = .next t → t.byteAt a ≠ s.byteAt a →
    (∃ b, tr = .bufWrite a b) ∨ (∃ w i, tr = .regWrite 0x0C w ∧ decode w = .ok i ∧ hasTwoRanges i = true)
end

