-- ==== Sys2Proof/Laws/State.lean ====
section
/-! SUPPORT. One lemma per field per update of the state, so that no later proof unfolds a record update. -/

namespace Sys2Proof.Machine

@[simp] theorem State.clearDone_order (s : State) : s.clearDone.order = s.order := rfl
@[simp] theorem State.clearDone_done (s : State) : s.clearDone.done = false := rfl
@[simp] theorem State.clearDone_err (s : State) : s.clearDone.err = s.err := rfl
@[simp] theorem State.clearDone_ecode (s : State) : s.clearDone.ecode = s.ecode := rfl
@[simp] theorem State.clearDone_src (s : State) : s.clearDone.src = s.src := rfl
@[simp] theorem State.clearDone_dst (s : State) : s.clearDone.dst = s.dst := rfl
@[simp] theorem State.clearDone_len (s : State) : s.clearDone.len = s.len := rfl
@[simp] theorem State.clearDone_rowb (s : State) : s.clearDone.rowb = s.rowb := rfl
@[simp] theorem State.clearDone_opa (s : State) : s.clearDone.opa = s.opa := rfl
@[simp] theorem State.clearDone_res (s : State) : s.clearDone.res = s.res := rfl
@[simp] theorem State.clearDone_csum (s : State) : s.clearDone.csum = s.csum := rfl
@[simp] theorem State.clearDone_faddr (s : State) : s.clearDone.faddr = s.faddr := rfl
@[simp] theorem State.clearDone_fcmd (s : State) : s.clearDone.fcmd = s.fcmd := rfl
@[simp] theorem State.clearDone_mem (s : State) : s.clearDone.mem = s.mem := rfl
@[simp] theorem State.clearDone_memTop (s : State) : s.clearDone.memTop = s.memTop := rfl
@[simp] theorem State.clearDone_script (s : State) : s.clearDone.script = s.script := rfl
@[simp] theorem State.clearDone_replies (s : State) : s.clearDone.replies = s.replies := rfl

@[simp] theorem State.setDone_order (s : State) : s.setDone.order = s.order := rfl
@[simp] theorem State.setDone_done (s : State) : s.setDone.done = true := rfl
@[simp] theorem State.setDone_err (s : State) : s.setDone.err = s.err := rfl
@[simp] theorem State.setDone_ecode (s : State) : s.setDone.ecode = s.ecode := rfl
@[simp] theorem State.setDone_src (s : State) : s.setDone.src = s.src := rfl
@[simp] theorem State.setDone_dst (s : State) : s.setDone.dst = s.dst := rfl
@[simp] theorem State.setDone_len (s : State) : s.setDone.len = s.len := rfl
@[simp] theorem State.setDone_rowb (s : State) : s.setDone.rowb = s.rowb := rfl
@[simp] theorem State.setDone_opa (s : State) : s.setDone.opa = s.opa := rfl
@[simp] theorem State.setDone_res (s : State) : s.setDone.res = s.res := rfl
@[simp] theorem State.setDone_csum (s : State) : s.setDone.csum = s.csum := rfl
@[simp] theorem State.setDone_faddr (s : State) : s.setDone.faddr = s.faddr := rfl
@[simp] theorem State.setDone_fcmd (s : State) : s.setDone.fcmd = s.fcmd := rfl
@[simp] theorem State.setDone_mem (s : State) : s.setDone.mem = s.mem := rfl
@[simp] theorem State.setDone_memTop (s : State) : s.setDone.memTop = s.memTop := rfl
@[simp] theorem State.setDone_script (s : State) : s.setDone.script = s.script := rfl
@[simp] theorem State.setDone_replies (s : State) : s.setDone.replies = s.replies := rfl

@[simp] theorem State.clearError_order (s : State) : s.clearError.order = s.order := rfl
@[simp] theorem State.clearError_done (s : State) : s.clearError.done = s.done := rfl
@[simp] theorem State.clearError_err (s : State) : s.clearError.err = false := rfl
@[simp] theorem State.clearError_ecode (s : State) : s.clearError.ecode = 0 := rfl
@[simp] theorem State.clearError_src (s : State) : s.clearError.src = s.src := rfl
@[simp] theorem State.clearError_dst (s : State) : s.clearError.dst = s.dst := rfl
@[simp] theorem State.clearError_len (s : State) : s.clearError.len = s.len := rfl
@[simp] theorem State.clearError_rowb (s : State) : s.clearError.rowb = s.rowb := rfl
@[simp] theorem State.clearError_opa (s : State) : s.clearError.opa = s.opa := rfl
@[simp] theorem State.clearError_res (s : State) : s.clearError.res = s.res := rfl
@[simp] theorem State.clearError_csum (s : State) : s.clearError.csum = s.csum := rfl
@[simp] theorem State.clearError_faddr (s : State) : s.clearError.faddr = 0 := rfl
@[simp] theorem State.clearError_fcmd (s : State) : s.clearError.fcmd = 0 := rfl
@[simp] theorem State.clearError_mem (s : State) : s.clearError.mem = s.mem := rfl
@[simp] theorem State.clearError_memTop (s : State) : s.clearError.memTop = s.memTop := rfl
@[simp] theorem State.clearError_script (s : State) : s.clearError.script = s.script := rfl
@[simp] theorem State.clearError_replies (s : State) : s.clearError.replies = s.replies := rfl

@[simp] theorem State.raiseError_order (s : State) (w : Word) (e : CommandError) : (s.raiseError w e).order = s.order := rfl
@[simp] theorem State.raiseError_done (s : State) (w : Word) (e : CommandError) : (s.raiseError w e).done = s.done := rfl
@[simp] theorem State.raiseError_err (s : State) (w : Word) (e : CommandError) : (s.raiseError w e).err = true := rfl
@[simp] theorem State.raiseError_ecode (s : State) (w : Word) (e : CommandError) : (s.raiseError w e).ecode = e.code.number := rfl
@[simp] theorem State.raiseError_src (s : State) (w : Word) (e : CommandError) : (s.raiseError w e).src = s.src := rfl
@[simp] theorem State.raiseError_dst (s : State) (w : Word) (e : CommandError) : (s.raiseError w e).dst = s.dst := rfl
@[simp] theorem State.raiseError_len (s : State) (w : Word) (e : CommandError) : (s.raiseError w e).len = s.len := rfl
@[simp] theorem State.raiseError_rowb (s : State) (w : Word) (e : CommandError) : (s.raiseError w e).rowb = s.rowb := rfl
@[simp] theorem State.raiseError_opa (s : State) (w : Word) (e : CommandError) : (s.raiseError w e).opa = s.opa := rfl
@[simp] theorem State.raiseError_res (s : State) (w : Word) (e : CommandError) : (s.raiseError w e).res = s.res := rfl
@[simp] theorem State.raiseError_csum (s : State) (w : Word) (e : CommandError) : (s.raiseError w e).csum = s.csum := rfl
@[simp] theorem State.raiseError_faddr (s : State) (w : Word) (e : CommandError) : (s.raiseError w e).faddr = e.info := rfl
@[simp] theorem State.raiseError_fcmd (s : State) (w : Word) (e : CommandError) : (s.raiseError w e).fcmd = w := rfl
@[simp] theorem State.raiseError_mem (s : State) (w : Word) (e : CommandError) : (s.raiseError w e).mem = s.mem := rfl
@[simp] theorem State.raiseError_memTop (s : State) (w : Word) (e : CommandError) : (s.raiseError w e).memTop = s.memTop := rfl
@[simp] theorem State.raiseError_script (s : State) (w : Word) (e : CommandError) : (s.raiseError w e).script = s.script := rfl
@[simp] theorem State.raiseError_replies (s : State) (w : Word) (e : CommandError) : (s.raiseError w e).replies = s.replies := rfl

@[simp] theorem State.setByte_order (s : State) (a : Nat) (v : Byte) : (s.setByte a v).order = s.order := rfl
@[simp] theorem State.setByte_done (s : State) (a : Nat) (v : Byte) : (s.setByte a v).done = s.done := rfl
@[simp] theorem State.setByte_err (s : State) (a : Nat) (v : Byte) : (s.setByte a v).err = s.err := rfl
@[simp] theorem State.setByte_ecode (s : State) (a : Nat) (v : Byte) : (s.setByte a v).ecode = s.ecode := rfl
@[simp] theorem State.setByte_src (s : State) (a : Nat) (v : Byte) : (s.setByte a v).src = s.src := rfl
@[simp] theorem State.setByte_dst (s : State) (a : Nat) (v : Byte) : (s.setByte a v).dst = s.dst := rfl
@[simp] theorem State.setByte_len (s : State) (a : Nat) (v : Byte) : (s.setByte a v).len = s.len := rfl
@[simp] theorem State.setByte_rowb (s : State) (a : Nat) (v : Byte) : (s.setByte a v).rowb = s.rowb := rfl
@[simp] theorem State.setByte_opa (s : State) (a : Nat) (v : Byte) : (s.setByte a v).opa = s.opa := rfl
@[simp] theorem State.setByte_res (s : State) (a : Nat) (v : Byte) : (s.setByte a v).res = s.res := rfl
@[simp] theorem State.setByte_csum (s : State) (a : Nat) (v : Byte) : (s.setByte a v).csum = s.csum := rfl
@[simp] theorem State.setByte_faddr (s : State) (a : Nat) (v : Byte) : (s.setByte a v).faddr = s.faddr := rfl
@[simp] theorem State.setByte_fcmd (s : State) (a : Nat) (v : Byte) : (s.setByte a v).fcmd = s.fcmd := rfl
@[simp] theorem State.setByte_mem (s : State) (a : Nat) (v : Byte) : (s.setByte a v).mem = s.mem.write a v := rfl
@[simp] theorem State.setByte_memTop (s : State) (a : Nat) (v : Byte) : (s.setByte a v).memTop = s.memTop := rfl
@[simp] theorem State.setByte_script (s : State) (a : Nat) (v : Byte) : (s.setByte a v).script = s.script := rfl
@[simp] theorem State.setByte_replies (s : State) (a : Nat) (v : Byte) : (s.setByte a v).replies = s.replies := rfl

@[simp] theorem State.setPixel_order (s : State) (a : Nat) (p : Pixel) : (s.setPixel a p).order = s.order := rfl
@[simp] theorem State.setPixel_done (s : State) (a : Nat) (p : Pixel) : (s.setPixel a p).done = s.done := rfl
@[simp] theorem State.setPixel_err (s : State) (a : Nat) (p : Pixel) : (s.setPixel a p).err = s.err := rfl
@[simp] theorem State.setPixel_ecode (s : State) (a : Nat) (p : Pixel) : (s.setPixel a p).ecode = s.ecode := rfl
@[simp] theorem State.setPixel_src (s : State) (a : Nat) (p : Pixel) : (s.setPixel a p).src = s.src := rfl
@[simp] theorem State.setPixel_dst (s : State) (a : Nat) (p : Pixel) : (s.setPixel a p).dst = s.dst := rfl
@[simp] theorem State.setPixel_len (s : State) (a : Nat) (p : Pixel) : (s.setPixel a p).len = s.len := rfl
@[simp] theorem State.setPixel_rowb (s : State) (a : Nat) (p : Pixel) : (s.setPixel a p).rowb = s.rowb := rfl
@[simp] theorem State.setPixel_opa (s : State) (a : Nat) (p : Pixel) : (s.setPixel a p).opa = s.opa := rfl
@[simp] theorem State.setPixel_res (s : State) (a : Nat) (p : Pixel) : (s.setPixel a p).res = s.res := rfl
@[simp] theorem State.setPixel_csum (s : State) (a : Nat) (p : Pixel) : (s.setPixel a p).csum = s.csum := rfl
@[simp] theorem State.setPixel_faddr (s : State) (a : Nat) (p : Pixel) : (s.setPixel a p).faddr = s.faddr := rfl
@[simp] theorem State.setPixel_fcmd (s : State) (a : Nat) (p : Pixel) : (s.setPixel a p).fcmd = s.fcmd := rfl
@[simp] theorem State.setPixel_memTop (s : State) (a : Nat) (p : Pixel) : (s.setPixel a p).memTop = s.memTop := rfl
@[simp] theorem State.setPixel_script (s : State) (a : Nat) (p : Pixel) : (s.setPixel a p).script = s.script := rfl
@[simp] theorem State.setPixel_replies (s : State) (a : Nat) (p : Pixel) : (s.setPixel a p).replies = s.replies := rfl

@[simp] theorem State.setRgb_order (s : State) (a : Nat) (p : Rgb24) : (s.setRgb a p).order = s.order := rfl
@[simp] theorem State.setRgb_done (s : State) (a : Nat) (p : Rgb24) : (s.setRgb a p).done = s.done := rfl
@[simp] theorem State.setRgb_err (s : State) (a : Nat) (p : Rgb24) : (s.setRgb a p).err = s.err := rfl
@[simp] theorem State.setRgb_ecode (s : State) (a : Nat) (p : Rgb24) : (s.setRgb a p).ecode = s.ecode := rfl
@[simp] theorem State.setRgb_src (s : State) (a : Nat) (p : Rgb24) : (s.setRgb a p).src = s.src := rfl
@[simp] theorem State.setRgb_dst (s : State) (a : Nat) (p : Rgb24) : (s.setRgb a p).dst = s.dst := rfl
@[simp] theorem State.setRgb_len (s : State) (a : Nat) (p : Rgb24) : (s.setRgb a p).len = s.len := rfl
@[simp] theorem State.setRgb_rowb (s : State) (a : Nat) (p : Rgb24) : (s.setRgb a p).rowb = s.rowb := rfl
@[simp] theorem State.setRgb_opa (s : State) (a : Nat) (p : Rgb24) : (s.setRgb a p).opa = s.opa := rfl
@[simp] theorem State.setRgb_res (s : State) (a : Nat) (p : Rgb24) : (s.setRgb a p).res = s.res := rfl
@[simp] theorem State.setRgb_csum (s : State) (a : Nat) (p : Rgb24) : (s.setRgb a p).csum = s.csum := rfl
@[simp] theorem State.setRgb_faddr (s : State) (a : Nat) (p : Rgb24) : (s.setRgb a p).faddr = s.faddr := rfl
@[simp] theorem State.setRgb_fcmd (s : State) (a : Nat) (p : Rgb24) : (s.setRgb a p).fcmd = s.fcmd := rfl
@[simp] theorem State.setRgb_memTop (s : State) (a : Nat) (p : Rgb24) : (s.setRgb a p).memTop = s.memTop := rfl
@[simp] theorem State.setRgb_script (s : State) (a : Nat) (p : Rgb24) : (s.setRgb a p).script = s.script := rfl
@[simp] theorem State.setRgb_replies (s : State) (a : Nat) (p : Rgb24) : (s.setRgb a p).replies = s.replies := rfl

@[simp] theorem State.answer_order (s : State) (r : Reply) : (s.answer r).order = s.order := rfl
@[simp] theorem State.answer_done (s : State) (r : Reply) : (s.answer r).done = s.done := rfl
@[simp] theorem State.answer_err (s : State) (r : Reply) : (s.answer r).err = s.err := rfl
@[simp] theorem State.answer_ecode (s : State) (r : Reply) : (s.answer r).ecode = s.ecode := rfl
@[simp] theorem State.answer_src (s : State) (r : Reply) : (s.answer r).src = s.src := rfl
@[simp] theorem State.answer_dst (s : State) (r : Reply) : (s.answer r).dst = s.dst := rfl
@[simp] theorem State.answer_len (s : State) (r : Reply) : (s.answer r).len = s.len := rfl
@[simp] theorem State.answer_rowb (s : State) (r : Reply) : (s.answer r).rowb = s.rowb := rfl
@[simp] theorem State.answer_opa (s : State) (r : Reply) : (s.answer r).opa = s.opa := rfl
@[simp] theorem State.answer_res (s : State) (r : Reply) : (s.answer r).res = s.res := rfl
@[simp] theorem State.answer_csum (s : State) (r : Reply) : (s.answer r).csum = s.csum := rfl
@[simp] theorem State.answer_faddr (s : State) (r : Reply) : (s.answer r).faddr = s.faddr := rfl
@[simp] theorem State.answer_fcmd (s : State) (r : Reply) : (s.answer r).fcmd = s.fcmd := rfl
@[simp] theorem State.answer_mem (s : State) (r : Reply) : (s.answer r).mem = s.mem := rfl
@[simp] theorem State.answer_memTop (s : State) (r : Reply) : (s.answer r).memTop = s.memTop := rfl
@[simp] theorem State.answer_script (s : State) (r : Reply) : (s.answer r).script = s.script := rfl
@[simp] theorem State.answer_replies (s : State) (r : Reply) : (s.answer r).replies = r :: s.replies := rfl

@[simp] theorem State.issue_order (s : State) (t : Transaction) : (s.issue t).order = s.order := rfl
@[simp] theorem State.issue_done (s : State) (t : Transaction) : (s.issue t).done = s.done := rfl
@[simp] theorem State.issue_err (s : State) (t : Transaction) : (s.issue t).err = s.err := rfl
@[simp] theorem State.issue_ecode (s : State) (t : Transaction) : (s.issue t).ecode = s.ecode := rfl
@[simp] theorem State.issue_src (s : State) (t : Transaction) : (s.issue t).src = s.src := rfl
@[simp] theorem State.issue_dst (s : State) (t : Transaction) : (s.issue t).dst = s.dst := rfl
@[simp] theorem State.issue_len (s : State) (t : Transaction) : (s.issue t).len = s.len := rfl
@[simp] theorem State.issue_rowb (s : State) (t : Transaction) : (s.issue t).rowb = s.rowb := rfl
@[simp] theorem State.issue_opa (s : State) (t : Transaction) : (s.issue t).opa = s.opa := rfl
@[simp] theorem State.issue_res (s : State) (t : Transaction) : (s.issue t).res = s.res := rfl
@[simp] theorem State.issue_csum (s : State) (t : Transaction) : (s.issue t).csum = s.csum := rfl
@[simp] theorem State.issue_faddr (s : State) (t : Transaction) : (s.issue t).faddr = s.faddr := rfl
@[simp] theorem State.issue_fcmd (s : State) (t : Transaction) : (s.issue t).fcmd = s.fcmd := rfl
@[simp] theorem State.issue_mem (s : State) (t : Transaction) : (s.issue t).mem = s.mem := rfl
@[simp] theorem State.issue_memTop (s : State) (t : Transaction) : (s.issue t).memTop = s.memTop := rfl
@[simp] theorem State.issue_script (s : State) (t : Transaction) : (s.issue t).script = t :: s.script := rfl
@[simp] theorem State.issue_replies (s : State) (t : Transaction) : (s.issue t).replies = s.replies := rfl

@[simp] theorem State.resetRegisters_order (s : State) : s.resetRegisters.order = .bgr := rfl
@[simp] theorem State.resetRegisters_done (s : State) : s.resetRegisters.done = false := rfl
@[simp] theorem State.resetRegisters_err (s : State) : s.resetRegisters.err = false := rfl
@[simp] theorem State.resetRegisters_ecode (s : State) : s.resetRegisters.ecode = 0 := rfl
@[simp] theorem State.resetRegisters_src (s : State) : s.resetRegisters.src = 0 := rfl
@[simp] theorem State.resetRegisters_dst (s : State) : s.resetRegisters.dst = 0 := rfl
@[simp] theorem State.resetRegisters_len (s : State) : s.resetRegisters.len = 0 := rfl
@[simp] theorem State.resetRegisters_rowb (s : State) : s.resetRegisters.rowb = 0 := rfl
@[simp] theorem State.resetRegisters_opa (s : State) : s.resetRegisters.opa = 0 := rfl
@[simp] theorem State.resetRegisters_res (s : State) : s.resetRegisters.res = 0 := rfl
@[simp] theorem State.resetRegisters_csum (s : State) : s.resetRegisters.csum = 0 := rfl
@[simp] theorem State.resetRegisters_faddr (s : State) : s.resetRegisters.faddr = 0 := rfl
@[simp] theorem State.resetRegisters_fcmd (s : State) : s.resetRegisters.fcmd = 0 := rfl
@[simp] theorem State.resetRegisters_mem (s : State) : s.resetRegisters.mem = s.mem := rfl
@[simp] theorem State.resetRegisters_memTop (s : State) : s.resetRegisters.memTop = s.memTop := rfl
@[simp] theorem State.resetRegisters_script (s : State) : s.resetRegisters.script = s.script := rfl
@[simp] theorem State.resetRegisters_replies (s : State) : s.resetRegisters.replies = s.replies := rfl

@[simp] theorem State.clearDone_memSize (s : State) : s.clearDone.memSize = s.memSize := rfl
@[simp] theorem State.setDone_memSize (s : State) : s.setDone.memSize = s.memSize := rfl
@[simp] theorem State.clearError_memSize (s : State) : s.clearError.memSize = s.memSize := rfl
@[simp] theorem State.raiseError_memSize (s : State) (w : Word) (e : CommandError) :
    (s.raiseError w e).memSize = s.memSize := rfl
@[simp] theorem State.setByte_memSize (s : State) (a : Nat) (v : Byte) : (s.setByte a v).memSize = s.memSize := rfl
@[simp] theorem State.setPixel_memSize (s : State) (a : Nat) (p : Pixel) :
    (s.setPixel a p).memSize = s.memSize := rfl
@[simp] theorem State.setRgb_memSize (s : State) (a : Nat) (p : Rgb24) : (s.setRgb a p).memSize = s.memSize := rfl
@[simp] theorem State.answer_memSize (s : State) (r : Reply) : (s.answer r).memSize = s.memSize := rfl
@[simp] theorem State.issue_memSize (s : State) (t : Transaction) : (s.issue t).memSize = s.memSize := rfl
@[simp] theorem State.resetRegisters_memSize (s : State) : s.resetRegisters.memSize = s.memSize := rfl

/-! What a byte reads as depends on the memory alone. -/

@[simp] theorem State.clearDone_byteAt (s : State) (a : Nat) : s.clearDone.byteAt a = s.byteAt a := rfl
@[simp] theorem State.setDone_byteAt (s : State) (a : Nat) : s.setDone.byteAt a = s.byteAt a := rfl
@[simp] theorem State.clearError_byteAt (s : State) (a : Nat) : s.clearError.byteAt a = s.byteAt a := rfl
@[simp] theorem State.raiseError_byteAt (s : State) (w : Word) (e : CommandError) (a : Nat) :
    (s.raiseError w e).byteAt a = s.byteAt a := rfl
@[simp] theorem State.answer_byteAt (s : State) (r : Reply) (a : Nat) : (s.answer r).byteAt a = s.byteAt a := rfl
@[simp] theorem State.issue_byteAt (s : State) (t : Transaction) (a : Nat) : (s.issue t).byteAt a = s.byteAt a := rfl
@[simp] theorem State.resetRegisters_byteAt (s : State) (a : Nat) : s.resetRegisters.byteAt a = s.byteAt a := rfl

/-- Two states with the same memory read the same bytes. -/
theorem State.byteAt_congr (s t : State) (h : s.mem = t.mem) (a : Nat) : s.byteAt a = t.byteAt a := by
  simp only [State.byteAt, h]

/-- `MEM_SIZE` is 1 to 2^32 (00_scope.md rule R6). -/
theorem State.memSize_bounds (s : State) : 1 ≤ s.memSize ∧ s.memSize ≤ 2 ^ 32 := by
  have := s.memTop.isLt
  simp only [State.memSize]
  omega

end Sys2Proof.Machine
end

