-- ==== Sys2Proof/Laws/Memory.lean ====
section
/-! SUPPORT. The laws of the buffer memory: read after write, the canonical form, and the pixel accesses. -/

namespace Sys2Proof.Machine

/-- A byte just written reads as written. -/
@[simp] theorem Memory.read?_write_same (m : Memory) (a : Nat) (v : Byte) :
    Memory.read? (Memory.write m a v) a = some v := by
  induction m with
  | nil => simp [Memory.write, Memory.read?]
  | cons c m ih =>
    obtain ⟨b, u⟩ := c
    simp only [Memory.write]
    split
    · simp [Memory.read?]
    · split
      · simp [Memory.read?]
      · rename_i h
        simp [Memory.read?, h, ih]

/-- A write leaves every other address alone. -/
theorem Memory.read?_write_other (m : Memory) (a b : Nat) (v : Byte) (h : b ≠ a) :
    Memory.read? (Memory.write m a v) b = Memory.read? m b := by
  induction m with
  | nil => simp [Memory.write, Memory.read?, h]
  | cons c m ih =>
    obtain ⟨d, u⟩ := c
    simp only [Memory.write]
    split
    · simp [Memory.read?, h]
    · split
      · rename_i _ e
        subst e
        simp [Memory.read?, h]
      · simp [Memory.read?, ih]

/-- The cells of a memory after a write are the cell written and cells it had. -/
theorem Memory.mem_write {m : Memory} {a : Nat} {v : Byte} {c : Host.Cell} (h : c ∈ Memory.write m a v) :
    c = (a, v) ∨ c ∈ m := by
  induction m with
  | nil => simpa [Memory.write] using h
  | cons d m ih =>
    obtain ⟨b, u⟩ := d
    simp only [Memory.write] at h
    split at h
    · simpa using h
    · split at h
      · rcases List.mem_cons.1 h with h | h
        · exact .inl h
        · exact .inr (List.mem_cons_of_mem _ h)
      · rcases List.mem_cons.1 h with h | h
        · exact .inr (h ▸ List.mem_cons_self)
        · exact (ih h).imp id (List.mem_cons_of_mem _)

/-- Writing keeps the canonical form. -/
theorem Memory.wf_write {m : Memory} (h : m.wf) (a : Nat) (v : Byte) : (Memory.write m a v).wf := by
  induction m with
  | nil => simp [Memory.write]
  | cons d m ih =>
    obtain ⟨b, u⟩ := d
    obtain ⟨hd, hm⟩ := List.pairwise_cons.1 h
    simp only [Memory.write]
    split
    · rename_i hab
      refine List.pairwise_cons.2 ⟨fun c hc => ?_, h⟩
      rcases List.mem_cons.1 hc with rfl | hc
      · exact hab
      · exact Nat.lt_trans hab (hd c hc)
    · split
      · rename_i _ e
        subst e
        exact List.pairwise_cons.2 ⟨hd, hm⟩
      · rename_i h1 h2
        refine List.pairwise_cons.2 ⟨fun c hc => ?_, ih hm⟩
        rcases Memory.mem_write hc with rfl | hc
        · exact Nat.lt_of_le_of_ne (Nat.le_of_not_lt h1) (Ne.symm h2)
        · exact hd c hc

/-- The memory after reset is in canonical form. -/
theorem Memory.wf_reset : State.reset.mem.wf := List.Pairwise.nil

/-! One byte. -/

@[simp] theorem State.byteAt_setByte_same (s : State) (a : Nat) (v : Byte) : (s.setByte a v).byteAt a = v := by
  simp [State.byteAt]

theorem State.byteAt_setByte_other (s : State) (a b : Nat) (v : Byte) (h : b ≠ a) :
    (s.setByte a v).byteAt b = s.byteAt b := by
  simp [State.byteAt, Memory.read?_write_other _ _ _ _ h]

/-- Read after write, both ways at once. -/
theorem State.byteAt_setByte (s : State) (a b : Nat) (v : Byte) :
    (s.setByte a v).byteAt b = if b = a then v else s.byteAt b := by
  split
  · rename_i h
    subst h
    exact s.byteAt_setByte_same b v
  · rename_i h
    exact s.byteAt_setByte_other a b v h

/-- A memory is as safe after a write at a valid address as before (`wf` and the bound on its addresses). -/
theorem Memory.valid_write {m : Memory} {n a : Nat} {v : Byte} (h : ∀ c ∈ m, c.1 < n) (ha : a < n) :
    ∀ c ∈ Memory.write m a v, c.1 < n := by
  intro c hc
  rcases Memory.mem_write hc with rfl | hc
  · exact ha
  · exact h c hc

/-! Pixels. -/

/-- What the bytes are after a 16-bit pixel is written: high byte first (20_memory.md rule R44). -/
theorem State.byteAt_setPixel (s : State) (a b : Nat) (p : Pixel) :
    (s.setPixel a p).byteAt b =
      if b = a + 1 then p.extractLsb' 0 8 else if b = a then p.extractLsb' 8 8 else s.byteAt b := by
  simp [State.setPixel, State.byteAt_setByte]

/-- What the bytes are after a 24-bit pixel is written. -/
theorem State.byteAt_setRgb (s : State) (a b : Nat) (p : Rgb24) :
    (s.setRgb a p).byteAt b =
      if b = a + 2 then p.b2 else if b = a + 1 then p.b1 else if b = a then p.b0 else s.byteAt b := by
  simp [State.setRgb, State.byteAt_setByte]

/-! Sequences of bytes. -/

@[simp] theorem State.length_bytesAt (s : State) (a n : Nat) : (s.bytesAt a n).length = n := by
  simp [State.bytesAt]

@[simp] theorem State.getElem_bytesAt (s : State) (a n i : Nat) (h : i < (s.bytesAt a n).length) :
    (s.bytesAt a n)[i] = s.byteAt (a + i) := by
  simp [State.bytesAt]

theorem State.getD_bytesAt (s : State) (a n i : Nat) (d : Byte) (h : i < n) :
    (s.bytesAt a n).getD i d = s.byteAt (a + i) := by
  simp [State.bytesAt, h]

theorem State.bytesAt_succ (s : State) (a n : Nat) :
    s.bytesAt a (n + 1) = s.bytesAt a n ++ [s.byteAt (a + n)] := by
  simp [State.bytesAt, List.range_succ]

theorem State.bytesAt_append (s : State) (a n m : Nat) :
    s.bytesAt a (n + m) = s.bytesAt a n ++ s.bytesAt (a + n) m := by
  induction m with
  | zero => simp [State.bytesAt]
  | succ m ih => rw [← Nat.add_assoc, State.bytesAt_succ, ih, State.bytesAt_succ, List.append_assoc, Nat.add_assoc]

end Sys2Proof.Machine
end

