-- ==== Sys2Proof/Laws/Ops.lean ====
section
/-! SUPPORT. One lemma for each shared operation, saying once everything it can do: the loop, the range and
overlap checks, raising an error, running a command, and the transactions of the host. -/

namespace Sys2Proof.Machine

/-! The loop. -/

@[simp] theorem forUpTo_zero {α : Type} (body : Nat → α → α) (x : α) : forUpTo 0 body x = x := rfl

theorem forUpTo_succ {α : Type} (n : Nat) (body : Nat → α → α) (x : α) :
    forUpTo (n + 1) body x = body n (forUpTo n body x) := rfl

/-- The induction principle of the loop: what holds before it and is carried from each turn to the next holds
after it. -/
theorem forUpTo_induct {α : Type} (P : Nat → α → Prop) (n : Nat) (body : Nat → α → α) (x : α) (h0 : P 0 x)
    (hs : ∀ i y, i < n → P i y → P (i + 1) (body i y)) : P n (forUpTo n body x) := by
  induction n with
  | zero => exact h0
  | succ n ih => exact hs n _ (Nat.lt_succ_self n) (ih (fun i y hi hy => hs i y (Nat.lt_succ_of_lt hi) hy))

/-- A loop whose body keeps a projection keeps it. -/
theorem forUpTo_keeps {α β : Type} (f : α → β) (n : Nat) (body : Nat → α → α) (x : α)
    (h : ∀ i y, f (body i y) = f y) : f (forUpTo n body x) = f x :=
  forUpTo_induct (fun _ y => f y = f x) n body x rfl (fun i y _ hy => (h i y).trans hy)

/-- A loop that reads only what an update leaves alone goes on as before under the update. -/
theorem forUpTo_commutes {α : Type} (u : α → α) (n : Nat) (body : Nat → α → α) (x : α)
    (h : ∀ i y, body i (u y) = u (body i y)) : forUpTo n body (u x) = u (forUpTo n body x) := by
  induction n with
  | zero => rfl
  | succ n ih => rw [forUpTo_succ, forUpTo_succ, ih, h]

/-! The checks. -/

/-- `InRange` as 20_memory.md rule R46 writes it. -/
theorem State.inRange_iff (s : State) (base : Word) (n : Nat) :
    s.inRange base n = true ↔ n = 0 ∨ base.toNat + n ≤ s.memSize := by
  simp [State.inRange]

@[simp] theorem State.inRange_zero (s : State) (base : Word) : s.inRange base 0 = true := by
  simp [State.inRange_iff]

/-- `Overlap` as 20_memory.md rule R47 writes it. -/
theorem overlap_iff (a b : Word) (na nb : Nat) :
    overlap a na b nb = true ↔ 0 < na ∧ 0 < nb ∧ a.toNat < b.toNat + nb ∧ b.toNat < a.toNat + na := by
  simp [overlap]

/-- Everything `SUM`'s check can answer. -/
theorem checkSource_cases (s : State) (sn : Nat) :
    (s.inRange s.src sn = true ∧ checkSource s sn = .ok ()) ∨
    (s.inRange s.src sn = false ∧ checkSource s sn = .error ⟨.range, s.src⟩) := by
  cases h : s.inRange s.src sn <;> simp [checkSource, h]

/-- Everything `CheckBuffers` can answer, in the order of 40_command_execution.md rule R87. -/
theorem checkBuffers_cases (s : State) (sn dn : Nat) :
    (s.inRange s.src sn = false ∧ checkBuffers s sn dn = .error ⟨.range, s.src⟩) ∨
    (s.inRange s.src sn = true ∧ s.inRange s.dst dn = false ∧
      checkBuffers s sn dn = .error ⟨.range, s.dst⟩) ∨
    (s.inRange s.src sn = true ∧ s.inRange s.dst dn = true ∧ overlap s.src sn s.dst dn = true ∧
      checkBuffers s sn dn = .error ⟨.overlap, 0⟩) ∨
    (s.inRange s.src sn = true ∧ s.inRange s.dst dn = true ∧ overlap s.src sn s.dst dn = false ∧
      checkBuffers s sn dn = .ok ()) := by
  cases h1 : s.inRange s.src sn <;> cases h2 : s.inRange s.dst dn <;>
    cases h3 : overlap s.src sn s.dst dn <;> simp [checkBuffers, h1, h2, h3]

/-- A width `CONV` accepts (43_convert.md rule R128). -/
theorem widthOk_iff (n : Nat) : widthOk n = true ↔ 1 ≤ n ∧ n ≤ 8 := by
  rw [widthOk, decide_eq_true_iff]
  rfl

/-- Everything `CONV`'s checks can answer (rule R128). -/
theorem checkConvert_cases (s : State) (sb db : Nat) :
    (widthOk sb = true ∧ widthOk db = true ∧ s.opa.toNat ≤ 2 ^ sb - 1 ∧ checkConvert s sb db = .ok ()) ∨
    (¬ (widthOk sb = true ∧ widthOk db = true ∧ s.opa.toNat ≤ 2 ^ sb - 1) ∧
      checkConvert s sb db = .error ⟨.param, 0⟩) := by
  cases h1 : widthOk sb <;> cases h2 : widthOk db <;>
    by_cases h3 : s.opa.toNat ≤ 2 ^ sb - 1 <;> simp [checkConvert, h1, h2, h3]

/-! Running a command. -/

/-- A command is dropped while `ERR` = 1 (60_exceptions.md rule R159). -/
theorem runCommand_dropped {s : State} (h : s.err = true) (w : Word)
    (body : State → Except CommandError State) : runCommand w body s = s := by
  simp [runCommand, h]

/-- A command whose routine succeeds (40_command_execution.md rule R83). -/
theorem runCommand_ok {s t : State} {w : Word} {body : State → Except CommandError State} (h : s.err = false)
    (hb : body s.clearDone = .ok t) : runCommand w body s = t.setDone := by
  simp [runCommand, h, hb]

/-- A command whose routine raises (rules R83, R157). -/
theorem runCommand_error {s : State} {w : Word} {e : CommandError} {body : State → Except CommandError State}
    (h : s.err = false) (hb : body s.clearDone = .error e) :
    runCommand w body s = s.clearDone.raiseError w e := by
  simp [runCommand, h, hb]

/-- Everything running a command can do. -/
theorem runCommand_cases (w : Word) (body : State → Except CommandError State) (s : State) :
    (s.err = true ∧ runCommand w body s = s) ∨
    (s.err = false ∧ ∃ e, body s.clearDone = .error e ∧ runCommand w body s = s.clearDone.raiseError w e) ∨
    (s.err = false ∧ ∃ t, body s.clearDone = .ok t ∧ runCommand w body s = t.setDone) := by
  cases h : s.err with
  | true => exact .inl ⟨rfl, runCommand_dropped h w body⟩
  | false =>
    cases hb : body s.clearDone with
    | error e => exact .inr (.inl ⟨rfl, e, rfl, runCommand_error h hb⟩)
    | ok t => exact .inr (.inr ⟨rfl, t, rfl, runCommand_ok h hb⟩)

/-! The host's side. -/

/-- The register at an offset is the one the map names (10_state.md rule R11). -/
theorem RegName.offset_ofOffset (r : RegName) : RegName.ofOffset r.offset = some r := by
  cases r <;> decide

/-- Only the offsets of the map hold a register (rule R29). -/
theorem RegName.ofOffset_eq_some {off : Nat} {r : RegName} (h : RegName.ofOffset off = some r) : off = r.offset := by
  have h := List.find?_some h
  exact (beq_iff_eq.1 h).symm

theorem validOffset_iff (off : Nat) : validOffset off = true ↔ off % 4 = 0 ∧ off < 256 := by
  rw [validOffset, Bool.and_eq_true, decide_eq_true_iff, beq_iff_eq]
  rfl

/-- Everything a step can do with the host's script: nothing when it is empty, else one transaction of it. -/
theorem step_nil {s : State} (h : s.script = []) : step s = .fault .hostIdle := by
  simp [step, nextTransaction, h]

theorem step_cons {s : State} {t : Transaction} {rest : List Transaction} (h : s.script = t :: rest) :
    step s = transact t { s with script := rest } := by
  simp [step, nextTransaction, h]

/-- A step that answers a next state took a transaction of the host. -/
theorem step_next {s t : State} (h : step s = .next t) :
    ∃ tr rest, s.script = tr :: rest ∧ transact tr { s with script := rest } = .next t := by
  cases hs : s.script with
  | nil => simp [step_nil hs] at h
  | cons tr rest => exact ⟨tr, rest, rfl, step_cons hs ▸ h⟩

/-- Everything a transaction that answers a next state can have done (40_command_execution.md rule R80). -/
theorem transact_next {tr : Transaction} {s t : State} (h : transact tr s = .next t) :
    (∃ off, tr = .regRead off ∧ validOffset off = true ∧ t = s.answer (.reg (s.readOffset off))) ∨
    (∃ off v, tr = .regWrite off v ∧ validOffset off = true ∧
      ((off = RegName.cmd.offset ∧ execute v s = .next t) ∨
       (∃ r, r ≠ .cmd ∧ off = r.offset ∧ t = s.writeReg r v) ∨
       (RegName.ofOffset off = none ∧ t = s))) ∨
    (∃ a, tr = .bufRead a ∧ a < s.memSize ∧ t = s.answer (.byte (s.byteAt a))) ∨
    (∃ a b, tr = .bufWrite a b ∧ a < s.memSize ∧ t = s.setByte a b) ∨
    (tr = .reset ∧ t = s.resetRegisters) := by
  cases tr with
  | regRead off =>
    simp only [transact] at h
    split at h
    · rename_i hv
      injection h with h
      exact .inl ⟨off, rfl, hv, h.symm⟩
    · cases h
  | regWrite off v =>
    simp only [transact] at h
    split at h
    · rename_i hv
      refine .inr (.inl ⟨off, v, rfl, hv, ?_⟩)
      simp only [writeOffset] at h
      split at h
      · rename_i hr
        exact .inl ⟨RegName.ofOffset_eq_some hr, h⟩
      · rename_i r hn hr
        injection h with h
        exact .inr (.inl ⟨r, hn, RegName.ofOffset_eq_some hr, h.symm⟩)
      · rename_i hr
        injection h with h
        exact .inr (.inr ⟨hr, h.symm⟩)
    · cases h
  | bufRead a =>
    simp only [transact] at h
    split at h
    · rename_i hv
      injection h with h
      exact .inr (.inr (.inl ⟨a, rfl, hv, h.symm⟩))
    · cases h
  | bufWrite a b =>
    simp only [transact] at h
    split at h
    · rename_i hv
      injection h with h
      exact .inr (.inr (.inr (.inl ⟨a, b, rfl, hv, h.symm⟩)))
    · cases h
  | reset =>
    injection h with h
    exact .inr (.inr (.inr (.inr ⟨rfl, h.symm⟩)))

end Sys2Proof.Machine
end

