-- ==== Sys2Proof/Laws/Commands.lean ====
section
/-! SUPPORT. The commands over the shared operations: the routine of each, and what their loops leave alone. -/

namespace Sys2Proof.Machine

/-- A command's own routine inside `Execute` (the `Do...` of 40_command_execution.md rule R83). -/
def routine : Instr → State → Except CommandError State
  | .nop => .ok
  | .sum => doSum
  | .rowrev => doRowrev
  | .swaprb => doSwaprb
  | .conv sbits dbits => doConv sbits.toNat dbits.toNat
  | .pack => doPack
  | .unpack => doUnpack

/-- Every command runs its routine in the one frame, and answers a next state (rule R83). -/
theorem exec_eq (i : Instr) (s : State) : exec i s = .next (runCommand (encode i) (routine i) s) := by
  cases i <;> rfl

/-- Everything `Execute` can do with a word (rule R83). -/
theorem execute_cases (w : Word) (s : State) :
    (∃ i, decode w = .ok i ∧ execute w s = exec i s) ∨
    (∃ e, decode w = .error e ∧
      execute w s = .next (runCommand w (fun _ => .error ⟨.illegal, 0⟩) s)) := by
  cases h : decode w with
  | ok i => exact .inl ⟨i, rfl, by simp [execute, h]⟩
  | error e => exact .inr ⟨e, rfl, by simp [execute, h, execIllegal]⟩

/-! A state that differs in memory alone. -/

/-- `t` is `s` with another memory. -/
def sameButMemory (s t : State) : Prop := t = { s with mem := t.mem }

theorem sameButMemory_refl (s : State) : sameButMemory s s := rfl

theorem sameButMemory_trans {s t u : State} (h₁ : sameButMemory s t) (h₂ : sameButMemory t u) :
    sameButMemory s u := by
  rw [sameButMemory] at *
  rw [h₂, h₁]

theorem sameButMemory_setByte (s : State) (a : Nat) (v : Byte) : sameButMemory s (s.setByte a v) := rfl
theorem sameButMemory_setPixel (s : State) (a : Nat) (p : Pixel) : sameButMemory s (s.setPixel a p) := rfl
theorem sameButMemory_setRgb (s : State) (a : Nat) (p : Rgb24) : sameButMemory s (s.setRgb a p) := rfl

/-- A loop whose body writes memory alone writes memory alone. -/
theorem forUpTo_sameButMemory (n : Nat) (body : Nat → State → State) (s : State)
    (h : ∀ i t, sameButMemory t (body i t)) : sameButMemory s (forUpTo n body s) :=
  forUpTo_induct (fun _ t => sameButMemory s t) n body s (sameButMemory_refl s)
    (fun i t _ ht => sameButMemory_trans ht (h i t))

theorem rowrevLoop_sameButMemory (src dst rows rowb : Nat) (s : State) :
    sameButMemory s (rowrevLoop src dst rows rowb s) :=
  forUpTo_sameButMemory _ _ _ (fun _ t => forUpTo_sameButMemory _ _ t (fun _ u => sameButMemory_setByte u _ _))

theorem swaprbLoop_sameButMemory (src dst n : Nat) (s : State) : sameButMemory s (swaprbLoop src dst n s) :=
  forUpTo_sameButMemory _ _ _ (fun _ t => sameButMemory_setRgb t _ _)

theorem packLoop_sameButMemory (src dst n : Nat) (s : State) : sameButMemory s (packLoop src dst n s) :=
  forUpTo_sameButMemory _ _ _ (fun _ t => sameButMemory_setPixel t _ _)

theorem unpackLoop_sameButMemory (src dst n : Nat) (s : State) : sameButMemory s (unpackLoop src dst n s) :=
  forUpTo_sameButMemory _ _ _ (fun _ t => sameButMemory_setRgb t _ _)

/-! The canonical form and the valid addresses, through the writes and the loops. -/

theorem memoryOk_setByte {s : State} {a : Nat} (h : s.mem.wf ∧ ∀ c ∈ s.mem, c.1 < s.memSize) (ha : a < s.memSize)
    (v : Byte) : (s.setByte a v).mem.wf ∧ ∀ c ∈ (s.setByte a v).mem, c.1 < (s.setByte a v).memSize :=
  ⟨Memory.wf_write h.1 a v, Memory.valid_write h.2 ha⟩

/-- Writing keeps the canonical form, whatever the address: for `setByte`, `setPixel` and `setRgb`. -/
theorem wf_setByte {s : State} (h : s.mem.wf) (a : Nat) (v : Byte) : (s.setByte a v).mem.wf :=
  Memory.wf_write h a v

theorem wf_setPixel {s : State} (h : s.mem.wf) (a : Nat) (p : Pixel) : (s.setPixel a p).mem.wf :=
  Memory.wf_write (Memory.wf_write h a _) _ _

theorem wf_setRgb {s : State} (h : s.mem.wf) (a : Nat) (p : Rgb24) : (s.setRgb a p).mem.wf :=
  Memory.wf_write (Memory.wf_write (Memory.wf_write h a _) _ _) _ _

theorem wf_forUpTo {s : State} (h : s.mem.wf) (n : Nat) (body : Nat → State → State)
    (hb : ∀ i t, t.mem.wf → (body i t).mem.wf) : (forUpTo n body s).mem.wf :=
  forUpTo_induct (fun _ t => t.mem.wf) n body s h (fun i t _ ht => hb i t ht)

theorem wf_rowrevLoop {s : State} (h : s.mem.wf) (src dst rows rowb : Nat) :
    (rowrevLoop src dst rows rowb s).mem.wf :=
  wf_forUpTo h _ _ (fun _ _ ht => wf_forUpTo ht _ _ (fun _ _ hu => wf_setByte hu _ _))

theorem wf_swaprbLoop {s : State} (h : s.mem.wf) (src dst n : Nat) : (swaprbLoop src dst n s).mem.wf :=
  wf_forUpTo h _ _ (fun _ _ ht => wf_setRgb ht _ _)

theorem wf_packLoop {s : State} (h : s.mem.wf) (src dst n : Nat) : (packLoop src dst n s).mem.wf :=
  wf_forUpTo h _ _ (fun _ _ ht => wf_setPixel ht _ _)

theorem wf_unpackLoop {s : State} (h : s.mem.wf) (src dst n : Nat) : (unpackLoop src dst n s).mem.wf :=
  wf_forUpTo h _ _ (fun _ _ ht => wf_setRgb ht _ _)

/-- The register operations and `Reset` leave the memory as it is. -/
theorem writeReg_mem (s : State) (r : RegName) (v : Word) : (s.writeReg r v).mem = s.mem := by
  cases r <;> try rfl
  simp only [State.writeReg, State.writeStatus]
  split <;> split <;> rfl

end Sys2Proof.Machine
end

