-- ==== Sys2Proof/Laws/PerInstr.lean ====
section
/-! SUPPORT. Statements about every command as syntax, one lemma per constructor of `Instr`. -/

namespace Sys2Proof.Laws

/-- The family `EncodesToItsRow`: a command's word selects the row of the opcode table that has its mnemonic
(30_encoding.md rule R64). -/
def EncodesToItsRow.Statement (i : Instr) : Prop :=
  ∃ r ∈ opcodeRows, r.mnemonic = i.mnemonic ∧ r.selects (encode i) = true

theorem EncodesToItsRow.nop : EncodesToItsRow.Statement .nop :=
  ⟨⟨"NOP", 0x00000000, 0xFFFFFFFF⟩, by decide, rfl, by decide⟩

theorem EncodesToItsRow.sum : EncodesToItsRow.Statement .sum :=
  ⟨⟨"SUM", 0x00000001, 0xFFFFFFFF⟩, by decide, rfl, by decide⟩

theorem EncodesToItsRow.rowrev : EncodesToItsRow.Statement .rowrev :=
  ⟨⟨"ROWREV", 0x00000002, 0xFFFFFFFF⟩, by decide, rfl, by decide⟩

theorem EncodesToItsRow.swaprb : EncodesToItsRow.Statement .swaprb :=
  ⟨⟨"SWAPRB", 0x00000003, 0xFFFFFFFF⟩, by decide, rfl, by decide⟩

theorem EncodesToItsRow.conv (sbits dbits : BitVec 4) : EncodesToItsRow.Statement (.conv sbits dbits) :=
  ⟨⟨"CONV", 0x00000004, 0xFFFF00FF⟩, by decide, rfl, by revert sbits dbits; decide⟩

theorem EncodesToItsRow.pack : EncodesToItsRow.Statement .pack :=
  ⟨⟨"PACK", 0x00000005, 0xFFFFFFFF⟩, by decide, rfl, by decide⟩

theorem EncodesToItsRow.unpack : EncodesToItsRow.Statement .unpack :=
  ⟨⟨"UNPACK", 0x00000006, 0xFFFFFFFF⟩, by decide, rfl, by decide⟩

end Sys2Proof.Laws
end

