-- ==== Sys2Proof/Machine/Assembler.lean ====
section
/-! DEFINITION. The text form of a script (30_encoding.md rule R70, with the numbers of 00_scope.md rule R7): one
statement per line, `;` starts a comment, register names in upper case, mnemonics in lower case. A line that is
no statement is rejected, and with it the script. What the rule leaves open of the text is the model's (DESIGN CHOICE,
safe: notes/assumptions/11.md). -/

namespace Sys2Proof.Machine

/-- What a line is made of. -/
inductive Token where
  | word (cs : List Char)
  | comma
deriving DecidableEq, Repr

/-- The token gathered so far, backwards, if there is one. -/
def flushToken : List Char → List Token
  | [] => []
  | cs => [.word cs.reverse]

/-- A line's tokens, up to its comment; the second argument is the token gathered so far, backwards. -/
def tokens : List Char → List Char → List Token
  | [], acc => flushToken acc
  | c :: cs, acc =>
    if c = ';' then flushToken acc
    else if c = ' ' ∨ c = '\t' ∨ c = '\r' then flushToken acc ++ tokens cs []
    else if c = ',' then flushToken acc ++ .comma :: tokens cs []
    else tokens cs (c :: acc)

/-- The lines of a text; the second argument is the line gathered so far, backwards. -/
def splitLines : List Char → List Char → List (List Char)
  | [], acc => [acc.reverse]
  | c :: cs, acc => if c = '\n' then acc.reverse :: splitLines cs [] else splitLines cs (c :: acc)

/-- The digits of a number, each at the place that is its value (00_scope.md rule R7). -/
def digitChars : List Char := "0123456789ABCDEF".toList

/-- A digit's value; a hexadecimal one may be of either case. -/
def digit (c : Char) : Option Nat := digitChars.idxOf? c.toUpper

/-- The value of digits in a base, most significant first; `_` is a visual separator (rule R7). -/
def digitsValue (base : Nat) : List Char → Nat → Option Nat
  | [], v => some v
  | c :: cs, v =>
    if c = '_' then digitsValue base cs v
    else
      match digit c with
      | some d => if d < base then digitsValue base cs (base * v + d) else none
      | none => none

/-- Digits of a base, at least one of them a digit. -/
def digits (base : Nat) (cs : List Char) : Option Nat :=
  if cs.any (fun c => c != '_') then digitsValue base cs 0 else none

/-- A number: `0x` prefixes hexadecimal, without a prefix it is decimal (rule R7). -/
def number : List Char → Option Nat
  | '0' :: 'x' :: cs => digits 16 cs
  | cs => digits 10 cs

/-- A number that fits in `n` bits. -/
def sized (n : Nat) (cs : List Char) : Option (BitVec n) :=
  match number cs with
  | some v => if v < 2 ^ n then some (BitVec.ofNat n v) else none
  | none => none

/-- A byte of `mw`: hexadecimal without a prefix (rule R70). -/
def hexByte (cs : List Char) : Option Byte :=
  match digits 16 cs with
  | some v => if v < 256 then some (BitVec.ofNat 8 v) else none
  | none => none

/-- A register's name in the script (rules R11, R70). -/
def RegName.name : RegName → String
  | .id => "ID"
  | .ctrl => "CTRL"
  | .status => "STATUS"
  | .cmd => "CMD"
  | .src => "SRC"
  | .dst => "DST"
  | .len => "LEN"
  | .rowb => "ROWB"
  | .opa => "OPA"
  | .res => "RES"
  | .csum => "CSUM"
  | .faddr => "FADDR"
  | .fcmd => "FCMD"

/-- A word of a line is this name. -/
def isName (cs : List Char) (name : String) : Bool := cs == name.toList

/-- The register a word of a line names. -/
def regNamed (cs : List Char) : Option RegName := RegName.all.find? (fun r => isName cs r.name)

/-- Words separated by commas. -/
def arguments : List Token → Option (List (List Char))
  | [] => some []
  | [.word w] => some [w]
  | .word w :: .comma :: t :: rest => (arguments (t :: rest)).map (w :: ·)
  | _ => none

/-- Words with nothing between them: the bytes of `mw`. -/
def plainWords : List Token → Option (List (List Char))
  | [] => some []
  | .word w :: rest => (plainWords rest).map (w :: ·)
  | .comma :: _ => none

/-- Every byte of a list of words, or none. -/
def hexBytes : List (List Char) → Option (List Byte)
  | [] => some []
  | w :: ws =>
    match hexByte w, hexBytes ws with
    | some b, some bs => some (b :: bs)
    | _, _ => none

/-- Every 32-bit number of a list of words, or none. -/
def words32 : List (List Char) → Option (List Word)
  | [] => some []
  | w :: ws =>
    match sized 32 w, words32 ws with
    | some v, some vs => some (v :: vs)
    | _, _ => none

/-- `cmd ...` (rule R70). -/
def parseCommand (name : List Char) (args : List (List Char)) : Option Stmt :=
  match args with
  | [] =>
    if isName name "nop" then some (.cmd .nop)
    else if isName name "sum" then some (.cmd .sum)
    else if isName name "rowrev" then some (.cmd .rowrev)
    else if isName name "swaprb" then some (.cmd .swaprb)
    else if isName name "pack" then some (.cmd .pack)
    else if isName name "unpack" then some (.cmd .unpack)
    else none
  | [w] => if isName name "word" then (sized 32 w).map .cmdWord else none
  | [s, d] =>
    if isName name "conv" then
      match sized 4 s, sized 4 d with
      | some s, some d => some (.cmd (.conv s d))
      | _, _ => none
    else none
  | _ => none

/-- The register and memory statements of rule R70, `order`, and `conv.val`, whose arguments are not all 32-bit
numbers. -/
def parseMixed (op : List Char) (args : List (List Char)) : Option Stmt :=
  match args with
  | [a] =>
    if isName op "rd" then (regNamed a).map .rd
    else if isName op "order" then
      if isName a "bgr" then some (.order .bgr)
      else if isName a "rgb" then some (.order .rgb)
      else none
    else none
  | [a, b] =>
    if isName op "wr" then
      match regNamed a, sized 32 b with
      | some r, some v => some (.wr r v)
      | _, _ => none
    else if isName op "mr" then
      match number a, number b with
      | some a, some n => some (.mr a n)
      | _, _ => none
    else none
  | [c, s, d] =>
    if isName op "conv.val" then
      match sized 32 c, sized 4 s, sized 4 d with
      | some c, some s, some d => some (.convVal c s d)
      | _, _, _ => none
    else none
  | _ => none

/-- The statements whose arguments are 32-bit numbers, those without arguments among them (rule R71). -/
def parseNumeric (op : List Char) (args : List Word) : Option Stmt :=
  match args with
  | [] =>
    if isName op "reset" then some .reset
    else if isName op "clrsum" then some .clrsum
    else if isName op "ack" then some .ack
    else if isName op "ackerr" then some .ackerr
    else none
  | [a, n] => if isName op "sum.buf" then some (.sumBuf a n) else none
  | [s, d, n] =>
    if isName op "swaprb.buf" then some (.swaprbBuf s d n)
    else if isName op "pack.buf" then some (.packBuf s d n)
    else if isName op "unpack.buf" then some (.unpackBuf s d n)
    else none
  | [s, d, rows, rowb] => if isName op "rowrev.buf" then some (.rowrevBuf s d rows rowb) else none
  | _ => none

/-- `mw a, b0 b1 ... bk`: at least one byte (rule R70). -/
def parseWrite (rest : List Token) : Option Stmt :=
  match rest with
  | .word a :: .comma :: t :: bytes =>
    match number a, (plainWords (t :: bytes)).bind hexBytes with
    | some a, some bytes => some (.mw a bytes)
    | _, _ => none
  | _ => none

/-- The statement a nonempty line holds (rules R70, R71). -/
def parseStmt (op : List Char) (rest : List Token) : Option Stmt :=
  if isName op "mw" then parseWrite rest
  else if isName op "cmd" then
    match rest with
    | .word name :: rest => (arguments rest).bind (parseCommand name)
    | _ => none
  else
    match arguments rest with
    | none => none
    | some args => (parseMixed op args).or ((words32 args).bind (parseNumeric op))

/-- One line: a statement, or nothing but space and a comment. -/
def parseLine (line : List Char) : Option (List Stmt) :=
  match tokens line [] with
  | [] => some []
  | .word op :: rest => (parseStmt op rest).map ([·])
  | .comma :: _ => none

/-- Lines one after another. -/
def parseLines : List (List Char) → Option (List Stmt)
  | [] => some []
  | l :: ls =>
    match parseLine l, parseLines ls with
    | some s, some ss => some (s ++ ss)
    | _, _ => none

/-- A script's text read whole. -/
def parseScript (text : List Char) : Option (List Stmt) := parseLines (splitLines text [])

end Sys2Proof.Machine
end

