-- ==== Sys2Proof/Tests/Slice0.lean ====
section
/-! SUPPORT. The model's own tests. Every expected value is the spec's: the tables and examples of its rules, or a
vector V-... of 95_test_vectors.md. After them, a witness for the hypotheses of every statement that has some. -/

namespace Sys2Proof.Tests

open Sys2Proof Sys2Proof.Machine

/-! Small states. -/

/-- Bytes one after another from an address. -/
def cells : Nat → List Byte → Memory
  | _, [] => []
  | a, b :: bs => (a, b) :: cells (a + 1) bs

/-- After reset, with operands set up and memory written. -/
def setUp (src dst len rowb : Word) (mem : Memory) : State :=
  { State.reset with src := src, dst := dst, len := len, rowb := rowb, mem := mem }

/-- The state a command answers, if any. -/
def after (i : Instr) (s : State) : Option State :=
  match exec i s with
  | .next t => some t
  | .fault _ => none
  | .refused _ => none

/-- The state one step answers, if any. -/
def stepped (s : State) : Option State :=
  match step s with
  | .next t => some t
  | .fault _ => none
  | .refused _ => none

/-- The state after reset with transactions to make. -/
def host (trs : List Transaction) : State := { State.reset with script := trs }

/-- The state after reset with an error recorded, as `cmd word 7` leaves it (V-ER-1). -/
def erring (trs : List Transaction) : State :=
  { State.reset with err := true, ecode := 1, fcmd := 7, script := trs }

/-- What a host reads of `STATUS`, `FADDR` and `FCMD` in a state. -/
def record (s : State) : Word × Word × Word := (s.readReg .status, s.readReg .faddr, s.readReg .fcmd)

/-! Decoding (30_encoding.md). -/

/-- Rule R67 and vectors V-ER-1 to V-ER-12, V-NOP-3: words that are illegal, and why. -/
theorem test_decode_illegal :
    decode 0b0000_0000_0000_0000_0000_0000_0000_0111 = .error .reservedOpcode ∧
    decode 0b0000_0000_0000_0000_0000_0000_0000_1111 = .error .reservedOpcode ∧
    decode 0b0000_0000_0000_0000_0000_0000_0001_0000 = .error .reservedBits ∧
    decode 0b0000_0000_0000_0000_0000_0000_0001_0100 = .error .reservedBits ∧
    decode 0b0000_0000_0000_0000_0000_0001_0000_0001 = .error .widthFields ∧
    decode 0b0000_0000_0000_0000_0001_0000_0000_0001 = .error .widthFields ∧
    decode 0b0000_0000_0000_0001_0000_0000_0000_0000 = .error .reservedBits ∧
    decode 0b1000_0000_0000_0000_0000_0000_0000_0100 = .error .reservedBits ∧
    decode 0b0000_0000_0000_0000_0000_0001_0000_0000 = .error .widthFields := by decide

/-- Rule R127's words of `CONV`: 8 to 5, 8 to 6, 5 to 8, 6 to 8. -/
theorem test_encode_conv :
    encode (.conv 8 5) = 0x00005804 ∧ encode (.conv 8 6) = 0x00006804 ∧
    encode (.conv 5 8) = 0x00008504 ∧ encode (.conv 6 8) = 0x00008604 := by decide

/-- The host's question about a table row: CONV's word with no widths, a longer word, an illegal word. -/
theorem test_table_word :
    decodeTableWord 32 0x4 = some (.conv 0 0) ∧ decodeTableWord 8 0x6 = some .unpack ∧
    decodeTableWord 64 0x1 = none ∧ decodeTableWord 32 0x7 = none := by decide

/-! What is well formed, and one ill-formed term for each check. -/

theorem test_wellFormed_words :
    wellFormedWord 0x00000000 = true ∧ wellFormedWord 0x00000006 = true ∧ wellFormedWord 0x0000FF04 = true := by
  decide

/-- A bit of `Z0`, a bit of `Z1`, a width field outside `CONV`, an opcode of 7 to 15. -/
theorem test_illFormed_words :
    wellFormedWord 0x00000014 = false ∧ wellFormedWord 0x00010004 = false ∧
    wellFormedWord 0x00005805 = false ∧ wellFormedWord 0x0000000F = false := by decide

/-- Rule R80's ranges: a misaligned offset, one outside the window, a buffer address of `MEM_SIZE`. -/
theorem test_illFormed_transactions :
    Transaction.valid 16 (.regRead 0xFC) = true ∧ Transaction.valid 16 (.regRead 0x02) = false ∧
    Transaction.valid 16 (.regWrite 0x100 0) = false ∧ Transaction.valid 16 (.bufRead 15) = true ∧
    Transaction.valid 16 (.bufWrite 16 0) = false := by decide

/-- A memory out of order, or with an address twice, is not in canonical form. -/
theorem test_illFormed_memory :
    Memory.wf [(1, 0), (2, 0)] ∧ ¬ Memory.wf [(2, 0), (1, 0)] ∧ ¬ Memory.wf [(1, 0), (1, 7)] := by decide

/-! The registers (10_state.md). -/

/-- V-REG-3, V-REG-4: only bit 0 of `CTRL` is kept. -/
theorem test_ctrl :
    ((State.reset.writeReg .ctrl 0xFFFFFFFF).readReg .ctrl,
      (State.reset.writeReg .ctrl 0xFFFFFFFE).readReg .ctrl) = (1, 0) := by decide

/-- V-REG-9, V-ER-20: writing `STATUS` sets nothing, and bit 0 alone does not clear an error. -/
theorem test_status :
    (State.reset.writeReg .status 0xFFFFFFFF).readReg .status = 0 ∧
    ((erring []).writeReg .status 0x1).readReg .status = 0x12 ∧
    ((erring []).writeReg .status 0x3).readReg .status = 0 := by decide

/-- V-REG-2, V-REG-5, V-REG-8: `ID` and `RES` ignore writes, `CMD` reads 0. -/
theorem test_readOnly :
    (State.reset.writeReg .id 0x12345678).readReg .id = 0x43353635 ∧
    (State.reset.writeReg .res 0x55).readReg .res = 0 ∧ State.reset.readReg .cmd = 0 := by decide

/-- V-REG-10, V-ER-22: `Reset` clears the registers and the error. -/
theorem test_reset :
    let s : State := { erring [] with csum := 0xDEADBEEF, src := 0xFFFFFFFF, order := .rgb }
    (record s.resetRegisters, s.resetRegisters.csum, s.resetRegisters.readReg .ctrl) = ((0, 0, 0), 0, 0) := by
  decide

/-! One step. -/

/-- The host's first transaction after reset writes the word, and the command runs. -/
theorem test_step_fetched :
    (stepped (State.reset.withFetchWord 32 0x00005804)).map (fun t => (t.done, t.err)) = some (true, false) ∧
    (stepped (State.reset.withFetchWord 32 0x7)).map record = some (0x12, 0, 7) := by decide

/-- V-ER-16: while `ERR` = 1 a command is dropped and a register write is not. -/
theorem test_step_after_error :
    (stepped (erring [.regWrite 0x0C 1])).map record = some (0x12, 0, 7) ∧
    (stepped (erring [.regWrite 0x18 2])).map (·.len) = some 2 := by decide

/-- A transaction outside the ranges of rule R80 is refused, and an idle host takes no step. -/
theorem test_step_stops :
    stepped (host [.regRead 0x100]) = none ∧ stepped (host [.bufRead 0x02000000]) = none ∧
    stepped (host []) = none := by decide

/-! The commands. -/

/-- V-NOP-1. -/
theorem test_nop : (after .nop State.reset).map record = some (0x01, 0, 0) := by decide

/-- A dropped `NOP` does not set `DONE` (rule R86). -/
theorem test_nop_dropped : (after .nop (erring [])).map record = some (0x12, 0, 7) := by decide

/-- V-SUM-3: the sum starts from `CSUM` and wraps: 0xFFFF_FF00 + 0x03 + 0xFF. -/
theorem test_sum_wraps :
    (after .sum { setUp 0x1002 0 2 0 (cells 0x1000 [1, 2, 3, 0xFF]) with csum := 0xFFFFFF00 }).map (·.csum) =
      some 2 := by decide

/-- V-SUM-8: one byte past `MEM_SIZE`. -/
theorem test_sum_range :
    (after .sum { setUp 0x01FFFFFC 0 5 0 [] with csum := 0x30E }).map (fun t => (record t, t.csum)) =
      some ((0x32, 0x01FFFFFC, 1), 0x30E) := by decide

/-- V-RR-2: three rows of two bytes, into the bytes right after the source. -/
theorem test_rowrev :
    (after .rowrev (setUp 0x100 0x106 3 2 (cells 0x100 [0xA1, 0xA2, 0xB1, 0xB2, 0xC1, 0xC2]))).map
      (fun t => (t.bytesAt 0x106 6, t.readReg .status)) =
      some ([0xC1, 0xC2, 0xB1, 0xB2, 0xA1, 0xA2], 0x01) := by decide

/-- V-RR-9: `LEN * ROWB` = 2^32 is not reduced. -/
theorem test_rowrev_range :
    (after .rowrev (setUp 0x100 0x200 0x10000 0x10000 [])).map record = some (0x32, 0x100, 2) := by decide

/-- V-SW-1. -/
theorem test_swaprb :
    (after .swaprb (setUp 0x100 0x200 2 0 (cells 0x100 [0x0A, 0x0B, 0x0C, 0x1A, 0x1B, 0x1C]))).map
      (·.bytesAt 0x200 6) = some [0x0C, 0x0B, 0x0A, 0x1C, 0x1B, 0x1A] := by decide

/-- V-SW-4: one shared byte. -/
theorem test_swaprb_overlap :
    (after .swaprb (setUp 0x100 0x102 1 0 (cells 0x100 [1, 2, 3]))).map record = some (0x42, 0, 3) := by decide

/-- V-CV-5: 31, where a shift would give 32. -/
theorem test_conv :
    (after (.conv 8 6) { State.reset with opa := 128 }).map (fun t => (t.res, t.readReg .status)) =
      some (31, 0x01) := by decide

/-- V-CV-E1: a source width of 0, and `RES` as it was. -/
theorem test_conv_param :
    (after (.conv 0 5) { State.reset with opa := 1, res := 255 }).map (fun t => (record t, t.res)) =
      some ((0x22, 0, 0x5004), 255) := by decide

/-- V-PK-7: (200, 100, 50) from blue, green, red. -/
theorem test_pack :
    (after .pack (setUp 0x100 0x200 1 0 (cells 0x100 [0x32, 0x64, 0xC8]))).map (·.bytesAt 0x200 2) =
      some [0xC3, 0x06] := by decide

/-- V-PK-10, second: red, green, blue. -/
theorem test_pack_rgb :
    (after .pack { setUp 0x100 0x200 1 0 (cells 0x100 [0x00, 0x80, 0xFF]) with order := .rgb }).map
      (·.bytesAt 0x200 2) = some [0x03, 0xFF] := by decide

/-- V-UP-5, both orders. -/
theorem test_unpack :
    (after .unpack (setUp 0x100 0x200 1 0 (cells 0x100 [0x12, 0x34]))).map (·.bytesAt 0x200 3) =
      some [0xA4, 0x44, 0x10] ∧
    (after .unpack { setUp 0x100 0x200 1 0 (cells 0x100 [0x12, 0x34]) with order := .rgb }).map
      (·.bytesAt 0x200 3) = some [0x10, 0x44, 0xA4] := by decide

/-- V-UP-16: the destination needs three bytes. -/
theorem test_unpack_range :
    (after .unpack (setUp 0 0x01FFFFFE 1 0 (cells 0 [1, 2]))).map record = some (0x32, 0x01FFFFFE, 6) := by decide

/-! The tables of 43_convert.md rule R129, and the sums over them in 95_test_vectors.md section 2.5. -/

theorem test_widen5 :
    (List.range 32).map (convert · 5 8) =
      [0, 8, 16, 24, 32, 41, 49, 57, 65, 74, 82, 90, 98, 106, 115, 123] ++
      [131, 139, 148, 156, 164, 172, 180, 189, 197, 205, 213, 222, 230, 238, 246, 255] := by decide

theorem test_widen6 :
    (List.range 64).map (convert · 6 8) =
      [0, 4, 8, 12, 16, 20, 24, 28, 32, 36, 40, 44, 48, 52, 56, 60] ++
      [64, 68, 72, 76, 80, 85, 89, 93, 97, 101, 105, 109, 113, 117, 121, 125] ++
      [129, 133, 137, 141, 145, 149, 153, 157, 161, 165, 170, 174, 178, 182, 186, 190] ++
      [194, 198, 202, 206, 210, 214, 218, 222, 226, 230, 234, 238, 242, 246, 250, 255] := by decide

/-- The least value that narrows to each of 1 to 31, and the one below it. -/
theorem test_narrow5 :
    let least := [9, 17, 25, 33, 42, 50, 58, 66, 75, 83, 91, 99, 107, 116, 124] ++
      [132, 140, 149, 157, 165, 173, 181, 190, 198, 206, 214, 223, 231, 239, 247, 255]
    least.map (convert · 8 5) = (List.range 31).map (· + 1) ∧
    least.map (fun c => convert (c - 1) 8 5) = List.range 31 := by decide

/-- The least value that narrows to each of 1 to 63, and the one below it. -/
theorem test_narrow6 :
    let least := [5, 9, 13, 17, 21, 25, 29, 33, 37, 41, 45, 49, 53, 57, 61] ++
      [65, 69, 73, 77, 81, 85, 90, 94, 98, 102, 106, 110, 114, 118, 122, 126] ++
      [130, 134, 138, 142, 146, 150, 154, 158, 162, 166, 170, 175, 179, 183, 187, 191] ++
      [195, 199, 203, 207, 211, 215, 219, 223, 227, 231, 235, 239, 243, 247, 251, 255]
    least.map (convert · 8 6) = (List.range 63).map (· + 1) ∧
    least.map (fun c => convert (c - 1) 8 6) = List.range 63 := by decide

theorem test_widen_sums :
    ((List.range 32).map (convert · 5 8)).sum = 4065 ∧ ((List.range 64).map (convert · 6 8)).sum = 8130 := by
  decide

/-- V-PK-9 and the worked cases of rules R135, R142. -/
theorem test_pixels :
    pack565 ⟨255, 128, 0⟩ = 0xFBE0 ∧ unpack565 0xFBE0 = ⟨255, 125, 0⟩ ∧
    pack565 (unpack565 0xFBE0) = 0xFBC0 ∧ pack565 (unpack565 0x0821) = 0 := by decide

/-! The script (30_encoding.md rules R70, R71). -/

theorem test_expand :
    Stmt.expand (.packBuf 0x1000 0x2000 2) =
      [.regWrite 0x10 0x1000, .regWrite 0x14 0x2000, .regWrite 0x18 2, .regWrite 0x0C 5] ∧
    Stmt.expand (.convVal 41 8 5) = [.regWrite 0x20 41, .regWrite 0x0C 0x5804] ∧
    Stmt.expand (.mw 0x100 [0xFB, 0xE0]) = [.bufWrite 0x100 0xFB, .bufWrite 0x101 0xE0] ∧
    Stmt.expand .ackerr = [.regWrite 0x08 2] := by decide

theorem test_parse :
    parseScript "mw 0x100, FB E0 ; a pixel\norder rgb\n\ncmd conv 8, 5".toList =
      some [.mw 0x100 [0xFB, 0xE0], .order .rgb, .cmd (.conv 8 5)] ∧
    parseScript "wr SRC, 0x00fF_A05d".toList = some [.wr .src 0x00FFA05D] ∧
    parseScript "wr SRC, 0x1G".toList = none ∧ parseScript "wr SRC, 1A".toList = none ∧
    parseScript "cmd halt".toList = none := by decide

/-! Witnesses: for each statement with hypotheses, a state and operands that meet all of them together, at the ends
of the ranges they name. -/

theorem witness_StepRunsTheDecodedCommand :
    (host [.regWrite 0x0C 5]).script = .regWrite 0x0C 5 :: [] ∧ decode 5 = .ok .pack ∧
    decode (BitVec.ofNat 32 0xFF04) = .ok (.conv 15 15) := by decide

/-- One word of each of the four kinds, each of that kind only. -/
theorem witness_IllegalWordIsRecorded :
    (host [.regWrite 0x0C 0x00010000]).err = false ∧
    (0x00010000 : Word).toNat / 2 ^ 16 ≠ 0 ∧ (0x00000010 : Word).toNat / 16 % 16 ≠ 0 ∧
    7 ≤ (0x00000007 : Word).toNat % 16 ∧
    ((0x00000100 : Word).toNat % 16 ≠ 4 ∧ (0x00000100 : Word).toNat / 256 % 256 ≠ 0) := by decide

theorem witness_CommandIsDroppedAfterAnError :
    (erring [.regWrite 0x0C 1]).script = .regWrite 0x0C 1 :: [] ∧ (erring [.regWrite 0x0C 1]).err = true := by
  decide

/-- The offsets at the ends of the window and of the mapped part. -/
theorem witness_RegisterReadReturns :
    (host [.regRead 0xFC]).script = .regRead 0xFC :: [] ∧
    ∀ off ∈ [0x00, 0x04, 0x08, 0x0C, 0x10, 0x14, 0x18, 0x1C, 0x20, 0x24, 0x28, 0x2C, 0x30, 0x34, 0xFC],
      off % 4 = 0 ∧ off < 256 := by decide

theorem witness_RegisterWriteDoes :
    (host [.regWrite 0xFC 1]).script = .regWrite 0xFC 1 :: [] ∧
    ∀ off ∈ [0x00, 0x04, 0x08, 0x0C, 0x10, 0x14, 0x18, 0x1C, 0x20, 0x24, 0x28, 0x2C, 0x30, 0x34, 0xFC],
      off % 4 = 0 ∧ off < 256 := by decide

theorem witness_AcknowledgeClearsTheError :
    (erring [.regWrite 0x08 2]).script = .regWrite 0x08 2 :: [] ∧ (2 : Word).toNat / 2 % 2 = 1 ∧
    (3 : Word).toNat / 2 % 2 = 1 := by decide

/-- The first and last unmapped offsets, each read-only register, and the accesses just outside. -/
theorem witness_OddRegisterAccesses :
    (∀ off ∈ [0x34, 0xFC], off % 4 = 0 ∧ 0x34 ≤ off ∧ off < 256) ∧
    (∀ off ∈ [0x00, 0x24, 0x2C, 0x30, 0x34, 0xFC],
      off % 4 = 0 ∧ (off = 0x00 ∨ off = 0x24 ∨ off = 0x2C ∨ off = 0x30 ∨ (0x34 ≤ off ∧ off < 256))) ∧
    (∀ off ∈ [0x01, 0x03, 0xFF, 0x100], off % 4 ≠ 0 ∨ 256 ≤ off) ∧
    (host [.regRead 0x34]).script = .regRead 0x34 :: [] ∧
    (host [.regWrite 0x100 0]).script = .regWrite 0x100 0 :: [] := by decide

/-- The highest valid address and the lowest invalid one. -/
theorem witness_HostLoadsAndStoresBytes :
    (host [.bufRead 0x01FFFFFF]).script = .bufRead 0x01FFFFFF :: [] ∧
    (host [.bufWrite 0x01FFFFFF 7]).script = .bufWrite 0x01FFFFFF 7 :: [] ∧
    0x01FFFFFF < (host []).memSize ∧ (host []).memSize ≤ 0x02000000 := by decide

theorem witness_StepTakesOneTransaction :
    (host []).script = [] ∧ step (host [.reset]) = .next State.reset ∧
    step (host [.regRead 0]) = .next { State.reset with replies := [.reg 0x43353635] } :=
  ⟨rfl, rfl, rfl⟩

theorem witness_RefusedExactlyOutsideTheRanges :
    (host [.regRead 0x100]).script = .regRead 0x100 :: [] ∧
    Transaction.valid (host []).memSize (.regRead 0x100) = false ∧
    Transaction.valid (host []).memSize (.bufRead 0x02000000) = false := by decide

theorem witness_ResetZeroesTheRegisters : (erring [.reset]).script = .reset :: [] := by decide

theorem witness_BufferCommandsAreSafeAfterReset :
    hasRange .sum = true ∧ hasRange .rowrev = true ∧ hasRange .swaprb = true ∧ hasRange .pack = true ∧
    hasRange .unpack = true := by decide

/-- A range that ends at `MEM_SIZE`, one that ends a byte later, and an empty one far outside. -/
theorem witness_SumAddsItsBytes :
    (setUp 0x01FFFFFC 0 4 0 []).err = false ∧
    (setUp 0x01FFFFFC 0 4 0 []).fits 0x01FFFFFC 4 ∧ ¬ (setUp 0x01FFFFFC 0 5 0 []).fits 0x01FFFFFC 5 ∧
    (setUp 0xFFFFFFFF 0 0 0 []).fits 0xFFFFFFFF 0 := by
  unfold State.fits
  decide

/-- The clauses of the four buffer commands at the ends of their ranges, `sn` and `dn` bytes: a source that ends at
`MEM_SIZE` and one a byte later, a destination likewise, ranges that share one byte and ranges that abut. -/
theorem witness_answersAsBufferCommand :
    (¬ State.reset.fits 0x01FFFFFB 6 ∧ State.reset.fits 0x01FFFFFA 6) ∧
    (State.reset.fits 0x100 6 ∧ ¬ State.reset.fits 0x01FFFFFD 4 ∧ State.reset.fits 0x01FFFFFC 4) ∧
    (State.reset.fits 0x105 4 ∧ meets 0x100 6 0x105 4) ∧
    (State.reset.fits 0x106 4 ∧ ¬ meets 0x100 6 0x106 4) := by
  unfold State.fits meets
  decide

/-- `ROWREV` of two rows of three bytes and `SWAPRB` of two pixels: source and destination fit and abut. -/
theorem witness_RowrevReversesRows :
    let s := setUp 0x100 0x106 2 3 (cells 0x100 [1, 2, 3, 4, 5, 6])
    s.err = false ∧ s.fits s.src (s.len.toNat * s.rowb.toNat) ∧ s.fits s.dst (s.len.toNat * s.rowb.toNat) ∧
    ¬ meets s.src (s.len.toNat * s.rowb.toNat) s.dst (s.len.toNat * s.rowb.toNat) ∧
    1 < s.len.toNat ∧ 2 < s.rowb.toNat := by
  unfold State.fits meets
  decide

theorem witness_SwaprbExchangesRedAndBlue :
    let s := setUp 0x100 0x106 2 0 (cells 0x100 [1, 2, 3, 4, 5, 6])
    s.err = false ∧ s.fits s.src (3 * s.len.toNat) ∧ s.fits s.dst (3 * s.len.toNat) ∧
    ¬ meets s.src (3 * s.len.toNat) s.dst (3 * s.len.toNat) ∧ 1 < s.len.toNat := by
  unfold State.fits meets
  decide

/-- Widths 1 and 8 with the largest operand, and just outside: widths 0 and 9, an operand of 2^s. -/
theorem witness_ConvRescalesItsOperand :
    State.reset.err = false ∧
    (1 ≤ (1 : BitVec 4).toNat ∧ (8 : BitVec 4).toNat ≤ 8 ∧ (255 : Word).toNat ≤ 2 ^ (8 : BitVec 4).toNat - 1) ∧
    ((0 : BitVec 4).toNat < 1 ∧ 8 < (9 : BitVec 4).toNat ∧ 2 ^ (8 : BitVec 4).toNat - 1 < (256 : Word).toNat) := by
  decide

theorem witness_PackNarrowsEachPixel :
    let s := setUp 0x100 0x106 2 0 (cells 0x100 [0x00, 0x80, 0xFF, 1, 2, 3])
    s.err = false ∧ s.fits s.src (3 * s.len.toNat) ∧ s.fits s.dst (2 * s.len.toNat) ∧
    ¬ meets s.src (3 * s.len.toNat) s.dst (2 * s.len.toNat) ∧ 1 < s.len.toNat := by
  unfold State.fits meets
  decide

theorem witness_UnpackWidensEachPixel :
    let s := setUp 0x100 0x104 2 0 (cells 0x100 [0xFB, 0xE0, 0x08, 0x21])
    s.err = false ∧ s.fits s.src (2 * s.len.toNat) ∧ s.fits s.dst (3 * s.len.toNat) ∧
    ¬ meets s.src (2 * s.len.toNat) s.dst (3 * s.len.toNat) ∧ 1 < s.len.toNat := by
  unfold State.fits meets
  decide

theorem witness_BufferCommandsComputeTheirFunctions :
    let s := setUp 0x100 0x200 2 3 (cells 0x100 [1, 2, 3, 4, 5, 6])
    s.err = false ∧
    (s.fits s.src s.rowBytes ∧ s.fits s.dst s.rowBytes ∧ ¬ meets s.src s.rowBytes s.dst s.rowBytes) ∧
    (s.fits s.src s.rgbBytes ∧ s.fits s.dst s.rgbBytes ∧ ¬ meets s.src s.rgbBytes s.dst s.rgbBytes) ∧
    (s.fits s.dst s.packedBytes ∧ ¬ meets s.src s.rgbBytes s.dst s.packedBytes) ∧
    (s.fits s.src s.packedBytes ∧ ¬ meets s.src s.packedBytes s.dst s.rgbBytes) := by
  unfold State.fits meets
  decide

/-- No elements at an address outside memory, and rows of no bytes (V-RR-6, V-RR-7). -/
theorem witness_ZeroLengthCommandsComplete :
    (setUp 0xFFFFFFF0 0x100 0 0x10000 []).err = false ∧ hasRange .rowrev = true ∧
    (setUp 0xFFFFFFF0 0x100 0 0x10000 []).len = 0 ∧ (setUp 0x100 0x100 5 0 []).rowb = 0 := by decide

theorem witness_CommandsKeepOtherRegisters :
    exec .nop State.reset = .next { State.reset with done := true } ∧
    exec .sum (erring []) = .next (erring []) ∧ (∀ sb db, Instr.nop ≠ .conv sb db) ∧ Instr.nop ≠ .sum :=
  ⟨rfl, rfl, fun _ _ h => Instr.noConfusion h, by decide⟩

/-- `PACK` of one pixel stores two bytes at 0x200; the bytes beside them are outside. -/
theorem witness_CommandsWriteOnlyTheirDestination :
    (after .pack (setUp 0x100 0x200 1 0 (cells 0x100 [0x00, 0x80, 0xFF]))).isSome = true ∧
    outsideRange 0x1FF 0x200 2 ∧ outsideRange 0x202 0x200 2 ∧ ¬ outsideRange 0x201 0x200 2 := by
  unfold outsideRange
  decide

/-- A word that fails and a word that does not. -/
theorem witness_FailingCommandChangesOnlyTheRecord :
    State.reset.err = false ∧ execute 7 State.reset = .next (erring []) ∧ (erring []).err = true ∧
    execute 0 State.reset = .next { State.reset with done := true } :=
  ⟨rfl, rfl, rfl, rfl⟩

theorem witness_ExactlyOneFlagAfterACommand :
    (host [.regWrite 0x0C 7]).script = .regWrite 0x0C 7 :: [] ∧ (host [.regWrite 0x0C 7]).err = false := by decide

theorem witness_CommandsReadOnlyTheirRegisters :
    (after .nop State.reset).isSome = true ∧ (after .sum State.reset).isSome = true ∧
    (after .rowrev State.reset).isSome = true ∧ (after .swaprb State.reset).isSome = true ∧
    (after (.conv 8 5) State.reset).isSome = true ∧ (after .pack State.reset).isSome = true ∧
    (after .unpack State.reset).isSome = true := by decide

/-- Two memories that hold the same source pixel and another byte elsewhere. -/
theorem witness_CommandsReadOnlyTheirSourceRange :
    let s := setUp 0x100 0x200 1 0 (cells 0x100 [0x00, 0x80, 0xFF])
    let m := cells 0x100 [0x00, 0x80, 0xFF, 0x77]
    s.err = false ∧ (∀ a ∈ [0x100, 0x101, 0x102], { s with mem := m }.byteAt a = s.byteAt a) ∧
    sourceBytes .pack s = 3 ∧ (after .pack s).map (·.err) = some false ∧ ¬ outsideRange 0x201 0x200 2 := by
  unfold outsideRange
  decide

theorem witness_BytesumIsAdditive :
    List.Perm ([1, 2] : List Byte) [2, 1] ∧ ([0xFF, 0xFF] : List Byte).length ≤ 16843009 :=
  ⟨List.Perm.swap 2 1 [], by decide⟩

theorem witness_RunningChecksumOverTwoRanges :
    let s := host (expandAll [.clrsum, .sumBuf 0x2000 3, .sumBuf 0x01FFFFFE 2] ++ [.reset])
    s.script = expandAll [.clrsum, .sumBuf 0x2000 3, .sumBuf 0x01FFFFFE 2] ++ [.reset] ∧ s.err = false ∧
    s.fits 0x2000 (3 : Word).toNat ∧ s.fits 0x01FFFFFE (2 : Word).toNat := by
  unfold State.fits
  decide

/-- Two bytes at the very end of memory. -/
theorem witness_ScriptReadsBackWhatItWrote :
    let s := host (expandAll [.mw 0x01FFFFFE [0xAB, 0xCD], .mr 0x01FFFFFE 2] ++ [.reset])
    s.script = expandAll [.mw 0x01FFFFFE [0xAB, 0xCD], .mr 0x01FFFFFE ([0xAB, 0xCD] : List Byte).length] ++ [.reset] ∧
    0x01FFFFFE + ([0xAB, 0xCD] : List Byte).length ≤ s.memSize := by decide

theorem witness_RowrevAndSwaprbAreInvolutions :
    ([1, 2, 3, 4, 5, 6] : List Byte).length = 3 * 2 ∧
    rowrev [1, 2, 3, 4, 5, 6] 3 2 = [5, 6, 3, 4, 1, 2] ∧ swaprb [1, 2, 3, 4, 5, 6] = [3, 2, 1, 6, 5, 4] := by decide

/-- Three buffers that abut. -/
theorem witness_RowrevTwiceRestoresTheBuffer :
    let s := setUp 0x100 0x106 2 3 (cells 0x100 [1, 2, 3, 4, 5, 6])
    s.err = false ∧ s.fits s.src s.rowBytes ∧ s.fits s.dst s.rowBytes ∧ s.fits 0x10C s.rowBytes ∧
    ¬ meets s.src s.rowBytes s.dst s.rowBytes ∧ ¬ meets s.dst s.rowBytes 0x10C s.rowBytes := by
  unfold State.fits meets
  decide

theorem witness_ChannelOrdersDifferBySwap :
    ([0x00, 0x80, 0xFF] : List Byte).length = 3 * 1 ∧ packBytes .bgr [0x00, 0x80, 0xFF] = [0xFB, 0xE0] ∧
    packBytes .rgb [0x00, 0x80, 0xFF] = [0x03, 0xFF] ∧ ([0x12, 0x34] : List Byte).length = 2 * 1 := by decide

/-- Two rows of one pixel, 24-bit and 16-bit. -/
theorem witness_RowReversalCommutesWithPixels :
    ([1, 2, 3, 4, 5, 6] : List Byte).length = 2 * (3 * 1) ∧ ([1, 2, 3, 4] : List Byte).length = 2 * (2 * 1) := by
  decide

theorem witness_ConvertKeepsItsProperties : 1 ≤ 8 ∧ 1 ≤ 5 ∧ 255 ≤ 2 ^ 8 - 1 ∧ 254 ≤ 255 := by decide

theorem witness_NarrowingMaximumOnlyFromMaximum : 255 ≤ 255 ∧ convert 255 8 5 = 31 ∧ convert 254 8 5 = 30 := by decide

theorem witness_RoundTripLosses :
    41 ≤ 255 ∧ convert (convert 41 8 5) 5 8 = 32 ∧ 1 ≤ 31 ∧ convert (convert 1 5 8) 8 5 = 0 ∧
    21 ≤ 63 ∧ convert (convert 21 6 8) 8 6 = 21 := by decide

theorem witness_PixelsAreBigEndian : (0x101 : Nat) ≠ 0x100 ∧ (0x102 : Nat) ≠ 0x100 + 1 := by decide

theorem witness_RangeChecksNeverWrap : 0 < 2 ∧ 2 ^ 32 < (0xFFFFFFFF : Word).toNat + 2 := by decide

/-- After reset, with a command to run: the three invariants hold and the step answers. -/
theorem witness_registersOk : (host [.regWrite 0x0C 7]).RegistersOk ∧ (stepped (host [.regWrite 0x0C 7])).isSome :=
  ⟨⟨fun _ => ⟨rfl, rfl, rfl⟩, by decide, by decide, by decide, by decide⟩, by decide⟩

/-- The state that a range error of `SUM` leaves meets them too. -/
theorem witness_recordOk :
    ({ State.reset with err := true, ecode := 3, faddr := 5, fcmd := 1, script := [.reset] } : State).RecordOk ∧
    (stepped { State.reset with err := true, ecode := 3, faddr := 5, fcmd := 1, script := [.reset] }).isSome :=
  ⟨⟨fun h => absurd h (by decide), fun h => absurd h (by decide), fun _ => ⟨.sum, by decide, by decide⟩,
    fun h => absurd h (by decide)⟩, by decide⟩

theorem witness_memoryOk :
    (setUp 0x100 0x200 1 0 [(0, 7), (0x01FFFFFF, 8)]).MemoryOk ∧
    (stepped { setUp 0x100 0x200 1 0 [(0, 7), (0x01FFFFFF, 8)] with script := [.bufWrite 3 9] }).isSome :=
  ⟨⟨by decide, by decide⟩, by decide⟩

theorem witness_OnlyACommandSetsErr :
    step (host [.regWrite 0x0C 7]) = .next (erring []) ∧ (host [.regWrite 0x0C 7]).err = false ∧
    (erring []).err = true :=
  ⟨rfl, rfl, rfl⟩

theorem witness_ErrorIsStickyThroughAStep :
    (erring [.regWrite 0x08 1]).script = .regWrite 0x08 1 :: [] ∧
    Transaction.clearsError (.regWrite 0x08 1) = false ∧ (stepped (erring [.regWrite 0x08 1])).isSome ∧
    (erring [.regWrite 0x08 1]).err = true := by decide

theorem witness_SafeRunHidesNoError :
    safeRun 1 (host [.regWrite 0x0C 0]) { State.reset with done := true } ∧
    (∀ tr ∈ (host [.regWrite 0x0C 0]).script.take 1, tr.clearsError = false) ∧
    runsTo 0 (host [.regWrite 0x0C 0]) (host [.regWrite 0x0C 0]) :=
  ⟨⟨rfl, rfl⟩, by decide, rfl⟩

/-- A `CONV` that changes `RES`, a host write that changes `CSUM`. -/
theorem witness_ResultRegistersChangeOnlyByTheirCommands :
    (stepped { host [.regWrite 0x0C 0x5804] with opa := 255 }).map (·.res) = some 31 ∧
    (stepped (host [.regWrite 0x28 9])).map (·.csum) = some 9 := by decide

theorem witness_MemoryChangesOnlyByItsWriters :
    let s := { setUp 0x100 0x200 1 0 [(0x100, 0xFF), (0x101, 0xFF), (0x102, 0xFF), (0x200, 0), (0x201, 0)] with
      script := [.regWrite 0x0C 5] }
    s.script = .regWrite 0x0C 5 :: [] ∧
    (stepped s).map (fun t => decide (t.byteAt 0x200 = s.byteAt 0x200)) = some false := by decide

end Sys2Proof.Tests
end

section
/-! The fields of a command word as numbers (30_encoding.md rule R60), and the words of `CONV` (rule R63). -/

namespace Sys2Proof

/-- Rule R60: the five fields lie side by side and make up the whole word. -/
theorem toNat_eq_fields (w : Word) :
    w.toNat = (z1Field w).toNat * 2 ^ 16 + (dbitsField w).toNat * 2 ^ 12 + (sbitsField w).toNat * 2 ^ 8 +
      (z0Field w).toNat * 2 ^ 4 + (opField w).toNat := by
  have hw : w.toNat < 2 ^ 32 := w.isLt
  simp only [z1Field, dbitsField, sbitsField, z0Field, opField, BitVec.extractLsb'_toNat, Nat.shiftRight_eq_div_pow]
  omega

/-- The fields of a word are the digits of its number: five numbers of the fields' widths that add up to the word
are its fields. -/
theorem toNat_eq_iff_fields (w : Word) (z1 : BitVec 16) (db sb z0 op : BitVec 4) :
    w.toNat = z1.toNat * 2 ^ 16 + db.toNat * 2 ^ 12 + sb.toNat * 2 ^ 8 + z0.toNat * 2 ^ 4 + op.toNat ↔
      z1Field w = z1 ∧ dbitsField w = db ∧ sbitsField w = sb ∧ z0Field w = z0 ∧ opField w = op := by
  rw [toNat_eq_fields w]
  constructor
  · intro h
    simp only [← BitVec.toNat_inj]
    omega
  · rintro ⟨rfl, rfl, rfl, rfl, rfl⟩
    rfl

/-- `Decode` answers a `CONV` only at its second test (rule R64), and with the word's own width fields. -/
theorem decode_eq_conv_iff (w : Word) (sb db : BitVec 4) :
    decode w = .ok (.conv sb db) ↔
      z1Field w = 0 ∧ dbitsField w = db ∧ sbitsField w = sb ∧ z0Field w = 0 ∧ opField w = 4 := by
  unfold decode
  split_ifs with hz hop
  · simp only [false_iff]
    tauto
  · obtain ⟨hz1, hz0⟩ := not_or.mp hz
    simp only [not_not.mp hz1, not_not.mp hz0, hop, Except.ok.injEq, Instr.conv.injEq, true_and, and_true]
    exact and_comm
  all_goals simp only [hop, reduceCtorEq, Except.ok.injEq, and_false]

/-- Settles O4: `Decode` reads the five fields of the word, and they are the digits of its number. -/
theorem convWordCarriesBothWidths : Obligations.ConvWordCarriesBothWidths := by
  intro w sb db
  rw [decode_eq_conv_iff, ← toNat_eq_iff_fields]
  simp

end Sys2Proof
end

section
/-! The host's transactions (40_command_execution.md rules R80 to R82, R88): what a step answers to each access, the
offsets of the register map, and the two registers that are read or written bit by bit, `CTRL` and `STATUS`. -/

namespace Sys2Proof.Machine

/-! Each access as a step. -/

/-- A register read at an offset of the window answers what `readOffset` says. -/
theorem step_regRead {s : State} {rest : List Transaction} {off : Nat} (h : s.script = .regRead off :: rest)
    (hal : off % 4 = 0) (hwin : off < 256) :
    step s = .next { s with script := rest, replies := .reg (s.readOffset off) :: s.replies } := by
  rw [step_cons h]
  exact if_pos ((validOffset_iff off).2 ⟨hal, hwin⟩)

/-- A register write at an offset of the window does what `writeOffset` says. -/
theorem step_regWrite {s : State} {rest : List Transaction} {off : Nat} {v : Word}
    (h : s.script = .regWrite off v :: rest) (hal : off % 4 = 0) (hwin : off < 256) :
    step s = writeOffset off v { s with script := rest } := by
  rw [step_cons h]
  exact if_pos ((validOffset_iff off).2 ⟨hal, hwin⟩)

/-- A load of a byte at a valid address answers the byte. -/
theorem step_bufRead {s : State} {rest : List Transaction} {a : Nat} (h : s.script = .bufRead a :: rest)
    (ha : a < s.memSize) :
    step s = .next { s with script := rest, replies := .byte (s.byteAt a) :: s.replies } := by
  rw [step_cons h]
  exact if_pos ha

/-- A store of a byte at a valid address writes it. -/
theorem step_bufWrite {s : State} {rest : List Transaction} {a : Nat} {b : Byte}
    (h : s.script = .bufWrite a b :: rest) (ha : a < s.memSize) :
    step s = .next ({ s with script := rest }.setByte a b) := by
  rw [step_cons h]
  exact if_pos ha

/-- A load or store at an invalid address is refused. -/
theorem step_bufAccess_invalid {s : State} {rest : List Transaction} {a : Nat} {b : Byte}
    (h : s.script = .bufRead a :: rest ∨ s.script = .bufWrite a b :: rest) (ha : s.memSize ≤ a) :
    step s = .refused .invalidBufferAccess := by
  obtain h | h := h <;> rw [step_cons h] <;> exact if_neg (Nat.not_lt.2 ha)

/-! The offsets of the register map. -/

/-- The thirteen registers fill the window without a gap up to 0x30; above it every offset is unmapped (10_state.md
rules R11, R29). -/
theorem RegName.offset_cases {off : Nat} (hal : off % 4 = 0) : (∃ r : RegName, r.offset = off) ∨ 0x34 ≤ off := by
  rcases Nat.lt_or_ge off 0x34 with hlt | hge
  · have hmap : ∀ k : Fin 13, ∃ r ∈ RegName.all, r.offset = 4 * k := by decide
    obtain ⟨r, -, hr⟩ := hmap ⟨off / 4, by omega⟩
    exact .inl ⟨r, hr.trans (by simp only; omega)⟩
  · exact .inr hge

theorem RegName.offset_lt (r : RegName) : r.offset < 0x34 := by
  cases r <;> decide

theorem RegName.ofOffset_unmapped {off : Nat} (h : 0x34 ≤ off) : RegName.ofOffset off = none := by
  rw [Option.eq_none_iff_forall_ne_some]
  intro r hr
  have hlt := r.offset_lt
  rw [← RegName.ofOffset_eq_some hr] at hlt
  omega

@[simp] theorem State.readOffset_offset (s : State) (r : RegName) : s.readOffset r.offset = s.readReg r := by
  rw [State.readOffset, RegName.offset_ofOffset]

theorem State.readOffset_unmapped (s : State) {off : Nat} (h : 0x34 ≤ off) : s.readOffset off = 0 := by
  rw [State.readOffset, RegName.ofOffset_unmapped h]

theorem writeOffset_cmd (v : Word) (s : State) : writeOffset RegName.cmd.offset v s = execute v s := rfl

theorem writeOffset_offset {r : RegName} (h : r ≠ .cmd) (v : Word) (s : State) :
    writeOffset r.offset v s = .next (s.writeReg r v) := by
  rw [writeOffset, RegName.offset_ofOffset]
  cases r with
  | cmd => exact absurd rfl h
  | _ => rfl

theorem writeOffset_unmapped {off : Nat} (h : 0x34 ≤ off) (v : Word) (s : State) :
    writeOffset off v s = .next s := by
  rw [writeOffset, RegName.ofOffset_unmapped h]

/-! `CTRL` and `STATUS` (10_state.md rules R23 to R25), the bits of a value as digits of its number. -/

theorem getLsbD_zero_iff (v : Word) : v.getLsbD 0 = true ↔ v.toNat % 2 = 1 := by
  rw [BitVec.getLsbD, Nat.testBit_zero, decide_eq_true_iff]

theorem getLsbD_one_iff (v : Word) : v.getLsbD 1 = true ↔ v.toNat / 2 % 2 = 1 := by
  rw [BitVec.getLsbD, Nat.testBit_succ, Nat.testBit_zero, decide_eq_true_iff]

theorem State.readReg_ctrl (s : State) : s.readReg .ctrl = if s.order = .rgb then 1 else 0 := by
  cases h : s.order <;> simp [State.readReg, h]

/-- Rule R24: the fields of `STATUS` lie side by side, so that their union is their sum. -/
theorem State.readReg_status (s : State) :
    s.readReg .status =
      BitVec.ofNat 32 (s.ecode.toNat * 16 + (if s.err then 2 else 0) + (if s.done then 1 else 0)) := by
  have hsum : ∀ (e : BitVec 4) (err done : Bool),
      (e.zeroExtend 32 <<< 4) ||| (flagBit err <<< 1) ||| flagBit done =
        BitVec.ofNat 32 (e.toNat * 16 + (if err then 2 else 0) + (if done then 1 else 0)) := by decide
  exact hsum s.ecode s.err s.done

theorem State.writeReg_ctrl (s : State) (v : Word) :
    s.writeReg .ctrl v = { s with order := if v.toNat % 2 = 1 then .rgb else .bgr } := by
  simp only [State.writeReg, orderSelected, getLsbD_zero_iff]

/-- Rule R25: bit 0 clears `DONE` and bit 1 the error, each on its own. -/
theorem State.writeReg_status (s : State) (v : Word) :
    s.writeReg .status v = { s with
      done := if v.toNat % 2 = 1 then false else s.done
      err := if v.toNat / 2 % 2 = 1 then false else s.err
      ecode := if v.toNat / 2 % 2 = 1 then 0 else s.ecode
      faddr := if v.toNat / 2 % 2 = 1 then 0 else s.faddr
      fcmd := if v.toNat / 2 % 2 = 1 then 0 else s.fcmd } := by
  simp only [State.writeReg, State.writeStatus, getLsbD_zero_iff, getLsbD_one_iff]
  split_ifs <;> rfl

/-! The statements. -/

/-- Settles O10, register by register: the registers stand at the offsets up to 0x30, where the
offset picks the row of the table by computation, and above it a read answers 0. -/
theorem registerReadReturns : Obligations.RegisterReadReturns := by
  intro s rest off h hal hwin
  rw [step_regRead h hal hwin]
  obtain ⟨r, rfl⟩ | hun := RegName.offset_cases hal
  · rw [State.readOffset_offset]
    cases r with
    | ctrl => rw [State.readReg_ctrl]; rfl
    | status => rw [State.readReg_status]; rfl
    | _ => rfl
  · rw [State.readOffset_unmapped s hun]
    simp (disch := omega) only [if_neg]

/-- Settles O11, register by register: `CMD` executes the value, and no other write looks at `ERR`. -/
theorem registerWriteDoes : Obligations.RegisterWriteDoes := by
  intro s rest off v h hal hwin
  rw [step_regWrite h hal hwin]
  obtain ⟨r, rfl⟩ | hun := RegName.offset_cases hal
  · cases r with
    | cmd => exact writeOffset_cmd v _
    | ctrl => rw [writeOffset_offset (by decide), State.writeReg_ctrl]; rfl
    | status => rw [writeOffset_offset (by decide), State.writeReg_status]; rfl
    | _ => exact writeOffset_offset (by decide) v _
  · rw [writeOffset_unmapped hun]
    simp (disch := omega) only [if_neg]

/-- Settles O14: a load answers the byte, a store obeys the law of read after write, and the rest is refused. -/
theorem hostLoadsAndStoresBytes : Obligations.HostLoadsAndStoresBytes := by
  refine ⟨fun s rest a h ha => step_bufRead h ha, fun s rest a b h ha => ?_,
    fun s rest a b h ha => step_bufAccess_invalid h ha⟩
  have hother : ∀ c, c ≠ a → ({ s with script := rest }.setByte a b).byteAt c = s.byteAt c := fun c hc =>
    ({ s with script := rest } : State).byteAt_setByte_other a c b hc
  exact ⟨_, step_bufWrite h ha, sameButMemory_setByte _ a b, State.byteAt_setByte_same _ a b, hother⟩

/-- Settles O20: the routine of `NOP` does nothing, so that only the frame around every command acts. -/
theorem nopSetsDone : Obligations.NopSetsDone := by
  refine ⟨decode_nop, fun s => ?_⟩
  rw [exec_eq]
  by_cases herr : s.err = true
  · rw [if_pos herr, runCommand_dropped herr]
  · have hrun : runCommand (encode .nop) (routine .nop) s = s.clearDone.setDone :=
      runCommand_ok (Bool.eq_false_of_not_eq_true herr) rfl
    rw [if_neg herr, hrun]
    rfl

end Sys2Proof.Machine
end

section
/-! The checksum command (41_checksum.md rules R100, R101): what its loop accumulates, and what its routine answers
to a range that fits in the buffer memory and to one that does not. -/

namespace Sys2Proof.Machine

theorem toNat_zext32 (b : Byte) : (zext32 b).toNat = b.toNat :=
  BitVec.toNat_setWidth_of_le (by decide)

/-- Rule R101, as derived there: reducing modulo 2^32 at every turn of the loop gives the same number as reducing
once at the end. -/
theorem toNat_sumLoop (s : State) (base n : Nat) (acc : Word) :
    (sumLoop s base n acc).toNat = (acc.toNat + ((s.bytesAt base n).map (·.toNat)).sum) % 2 ^ 32 := by
  induction n with
  | zero => exact (Nat.mod_eq_of_lt acc.isLt).symm
  | succ n ih =>
    have hturn : sumLoop s base (n + 1) acc = sumLoop s base n acc + zext32 (s.byteAt (base + n)) := rfl
    have hbytes : ((s.bytesAt base (n + 1)).map (·.toNat)).sum =
        ((s.bytesAt base n).map (·.toNat)).sum + (s.byteAt (base + n)).toNat := by
      simp [State.bytesAt_succ]
    rw [hturn, hbytes, BitVec.toNat_add, toNat_zext32, ih, Nat.mod_add_mod, Nat.add_assoc]

/-- The machine's test of a range (20_memory.md rule R46) is the statements' predicate. -/
theorem State.inRange_iff_fits (s : State) (base : Word) (n : Nat) : s.inRange base n = true ↔ s.fits base n :=
  s.inRange_iff base n

theorem checkSource_of_fits {s : State} {sn : Nat} (h : s.fits s.src sn) : checkSource s sn = .ok () :=
  if_pos ((s.inRange_iff_fits s.src sn).2 h)

theorem checkSource_of_not_fits {s : State} {sn : Nat} (h : ¬ s.fits s.src sn) :
    checkSource s sn = .error ⟨.range, s.src⟩ :=
  if_neg (mt (s.inRange_iff_fits s.src sn).1 h)

theorem doSum_of_fits {s : State} (h : s.fits s.src s.len.toNat) :
    doSum s = .ok { s with csum := sumLoop s s.src.toNat s.len.toNat s.csum } := by
  rw [doSum, State.lenBytes, checkSource_of_fits h]

theorem doSum_of_not_fits {s : State} (h : ¬ s.fits s.src s.len.toNat) :
    doSum s = .error ⟨.range, s.src⟩ := by
  rw [doSum, State.lenBytes, checkSource_of_not_fits h]

/-- The routine runs on `s.clearDone`, which has the bytes and the operands of `s`, so that its sum is that of `s`. -/
theorem exec_sum_of_fits {s : State} (herr : s.err = false) (h : s.fits s.src s.len.toNat) :
    exec .sum s = .next { s with done := true, csum := sumLoop s s.src.toNat s.len.toNat s.csum } := by
  have hbody : routine .sum s.clearDone =
      .ok { s.clearDone with csum := sumLoop s.clearDone s.src.toNat s.len.toNat s.csum } := doSum_of_fits h
  rw [exec_eq, runCommand_ok herr hbody]
  rfl

theorem exec_sum_of_not_fits {s : State} (herr : s.err = false) (h : ¬ s.fits s.src s.len.toNat) :
    exec .sum s = .next (s.failed 0x1 3 s.src) := by
  have hbody : routine .sum s.clearDone = .error ⟨.range, s.src⟩ := doSum_of_not_fits h
  rw [exec_eq, runCommand_error herr hbody]
  rfl

/-- Settles O21, on whether the source range fits: the loop's number is the sum of the bytes, or the check raises. -/
theorem sumAddsItsBytes : Obligations.SumAddsItsBytes :=
  ⟨decode_sum, fun s herr =>
    ⟨fun hfits => ⟨_, exec_sum_of_fits herr hfits, rfl, toNat_sumLoop s _ _ _⟩, exec_sum_of_not_fits herr⟩⟩

end Sys2Proof.Machine
end

section
/-! Filling a byte range from another (20_memory.md rules R46, R47): what a loop that stores one element a turn leaves
behind when the range it reads lies apart from the range it stores to, and what a command with such a loop answers
behind `CheckBuffers` (40_command_execution.md rule R87). -/

namespace Sys2Proof.Machine

/-! A range that has been filled. -/

/-- `t` is `s` with the `n` bytes from `base` on replaced by `f 0` to `f (n - 1)`. -/
structure Filled (s t : State) (base n : Nat) (f : Nat → Byte) : Prop where
  sameButMemory : sameButMemory s t
  outside : ∀ a, outsideRange a base n → t.byteAt a = s.byteAt a
  inside : ∀ k, k < n → t.byteAt (base + k) = f k

/-- `s` and `t` have the same `n` bytes from `base` on. -/
def sameBytes (s t : State) (base n : Nat) : Prop := ∀ k, k < n → t.byteAt (base + k) = s.byteAt (base + k)

/-- No byte of the range [src, src + sn) is in the range [dst, dst + dn). -/
def apart (src sn dst dn : Nat) : Prop := ∀ k, k < sn → outsideRange (src + k) dst dn

/-- A part of a range is apart from whatever the whole is. -/
theorem apart_mono {src sn dst dn dst' dn' : Nat} (h : apart src sn dst dn) (hlo : dst ≤ dst')
    (hhi : dst' + dn' ≤ dst + dn) : apart src sn dst' dn' := fun k hk =>
  (h k hk).imp (fun hlt => hlt.trans_le hlo) hhi.trans

theorem filled_zero (s : State) (base : Nat) (f : Nat → Byte) : Filled s s base 0 f :=
  ⟨sameButMemory_refl s, fun _ _ => rfl, fun _ hk => absurd hk (Nat.not_lt_zero _)⟩

theorem filled_setByte (s : State) (a : Nat) {v : Byte} {f : Nat → Byte} (hv : v = f 0) :
    Filled s (s.setByte a v) a 1 f where
  sameButMemory := sameButMemory_setByte s a v
  outside b hb := s.byteAt_setByte_other a b v (by unfold outsideRange at hb; omega)
  inside k hk := by
    obtain rfl : k = 0 := by omega
    exact (s.byteAt_setByte_same a v).trans hv

theorem filled_setRgb (s : State) (a : Nat) {p : Rgb24} {f : Nat → Byte} (h0 : p.b0 = f 0) (h1 : p.b1 = f 1)
    (h2 : p.b2 = f 2) : Filled s (s.setRgb a p) a 3 f where
  sameButMemory := sameButMemory_setRgb s a p
  outside b hb := by
    unfold outsideRange at hb
    rw [State.byteAt_setRgb, if_neg (by omega), if_neg (by omega), if_neg (by omega)]
  inside k hk := by
    rw [State.byteAt_setRgb]
    obtain rfl | rfl | rfl : k = 0 ∨ k = 1 ∨ k = 2 := by omega
    · simpa using h0
    · simpa using h1
    · simpa using h2

/-- Filling goes on where it stopped. -/
theorem Filled.append {s t u : State} {base n m : Nat} {f : Nat → Byte} (h : Filled s t base n f)
    (h' : Filled t u (base + n) m (fun k => f (n + k))) : Filled s u base (n + m) f where
  sameButMemory := sameButMemory_trans h.sameButMemory h'.sameButMemory
  outside a ha := by
    unfold outsideRange at ha
    rw [h'.outside a (by unfold outsideRange; omega), h.outside a (by unfold outsideRange; omega)]
  inside k hk := by
    rcases Nat.lt_or_ge k n with hlt | hge
    · rw [h'.outside (base + k) (.inl (by omega)), h.inside k hlt]
    · obtain ⟨j, rfl⟩ := Nat.exists_eq_add_of_le hge
      rw [← Nat.add_assoc, h'.inside j (by omega)]

/-- What lies apart from a filled range is as before. -/
theorem Filled.keeps_apart {s t : State} {src sn dst dn : Nat} {f : Nat → Byte} (h : Filled s t dst dn f)
    (hapart : apart src sn dst dn) : sameBytes s t src sn := fun k hk =>
  h.outside (src + k) (hapart k hk)

/-- A loop that in turn `i` stores the `m` bytes of element `i` fills its `n` elements, when the bytes it reads lie
apart from them: at every turn the source is then as it was before the loop. -/
theorem forUpTo_filled {s : State} {src sn dst n m : Nat} {f : Nat → Byte} {body : Nat → State → State}
    (hapart : apart src sn dst (n * m))
    (hbody : ∀ i t, i < n → sameButMemory s t → sameBytes s t src sn →
      Filled t (body i t) (dst + i * m) m (fun k => f (i * m + k))) :
    Filled s (forUpTo n body s) dst (n * m) f := by
  refine forUpTo_induct (fun i t => Filled s t dst (i * m) f) n body s ?_ (fun i t hi ht => ?_)
  · rw [Nat.zero_mul]
    exact filled_zero s dst f
  · have hle : i * m ≤ n * m := Nat.mul_le_mul_right m hi.le
    have hsrc : sameBytes s t src sn := ht.keeps_apart (apart_mono hapart le_rfl (by omega))
    rw [Nat.succ_mul]
    exact ht.append (hbody i t hi ht.sameButMemory hsrc)

/-- The loop for elements of one byte, which `value` reads off the state. -/
theorem forUpTo_setByte_filled {s : State} {src sn dst n : Nat} {f : Nat → Byte} {value : Nat → State → Byte}
    (hapart : apart src sn dst n) (hvalue : ∀ i t, i < n → sameBytes s t src sn → value i t = f i) :
    Filled s (forUpTo n (fun i t => t.setByte (dst + i) (value i t)) s) dst n f := by
  rw [← Nat.mul_one n] at hapart
  have h := forUpTo_filled (m := 1) (f := f) (body := fun i t => t.setByte (dst + i) (value i t)) hapart
    fun i t hi _ hsrc => by simpa using filled_setByte t (dst + i) (hvalue i t hi hsrc)
  rwa [Nat.mul_one] at h

/-! `CheckBuffers` by the statements' own predicates, in the order of rule R87. -/

theorem overlap_iff_meets (a b : Word) (na nb : Nat) : overlap a na b nb = true ↔ meets a na b nb :=
  overlap_iff a b na nb

theorem apart_of_not_meets {a b : Word} {na nb : Nat} (h : ¬ meets a na b nb) : apart a.toNat na b.toNat nb := by
  intro k hk
  unfold meets at h
  unfold outsideRange
  omega

section
variable {s : State} {sn dn : Nat}

theorem checkBuffers_of_src_not_fits (hs : ¬ s.fits s.src sn) : checkBuffers s sn dn = .error ⟨.range, s.src⟩ := by
  rw [← State.inRange_iff_fits] at hs
  simp [checkBuffers, hs]

theorem checkBuffers_of_dst_not_fits (hs : s.fits s.src sn) (hd : ¬ s.fits s.dst dn) :
    checkBuffers s sn dn = .error ⟨.range, s.dst⟩ := by
  rw [← State.inRange_iff_fits] at hs hd
  simp [checkBuffers, hs, hd]

theorem checkBuffers_of_meets (hs : s.fits s.src sn) (hd : s.fits s.dst dn) (hm : meets s.src sn s.dst dn) :
    checkBuffers s sn dn = .error ⟨.overlap, 0⟩ := by
  rw [← State.inRange_iff_fits] at hs hd
  rw [← overlap_iff_meets] at hm
  simp [checkBuffers, hs, hd, hm]

theorem checkBuffers_of_not_meets (hs : s.fits s.src sn) (hd : s.fits s.dst dn) (hm : ¬ meets s.src sn s.dst dn) :
    checkBuffers s sn dn = .ok () := by
  rw [← State.inRange_iff_fits] at hs hd
  rw [← overlap_iff_meets] at hm
  simp [checkBuffers, hs, hd, hm]

end

/-! A command behind `CheckBuffers`. The check and the loop run on `s.clearDone`, which has the operands and the bytes
of `s`. -/

section
variable {s u : State} {i : Instr} {sn dn : Nat} (herr : s.err = false)
  (hroutine : routine i s.clearDone = (checkBuffers s sn dn).map fun _ => u)
include herr hroutine

theorem exec_of_checkBuffers_error {e : CommandError} (he : checkBuffers s sn dn = .error e) :
    exec i s = .next (s.failed (encode i) e.code.number e.info) := by
  rw [he] at hroutine
  rw [exec_eq, runCommand_error herr hroutine]
  rfl

theorem exec_of_checkBuffers_ok (hok : checkBuffers s sn dn = .ok ()) : exec i s = .next u.setDone := by
  rw [hok] at hroutine
  rw [exec_eq, runCommand_ok herr hroutine]

/-- A command that checks its two ranges and then fills its destination answers as rules R87 and R156 say. -/
theorem answersAsBufferCommand_of_filled {f : Nat → Byte} {written : State → Prop}
    (hfill : apart s.src.toNat sn s.dst.toNat dn → Filled s.clearDone u s.dst.toNat dn f)
    (hwritten : ∀ t : State, (∀ k, k < dn → t.byteAt (s.dst.toNat + k) = f k) → written t) :
    answersAsBufferCommand s (encode i) sn dn (exec i s) written := by
  refine ⟨fun hs => ?_, fun hs hd => ?_, fun hs hd hm => ?_, fun hs hd hm => ?_⟩
  · exact exec_of_checkBuffers_error herr hroutine (checkBuffers_of_src_not_fits hs)
  · exact exec_of_checkBuffers_error herr hroutine (checkBuffers_of_dst_not_fits hs hd)
  · exact exec_of_checkBuffers_error herr hroutine (checkBuffers_of_meets hs hd hm)
  · obtain ⟨hsame, houtside, hinside⟩ := hfill (apart_of_not_meets hm)
    have hdone : u.setDone = { s with done := true, mem := u.setDone.mem } := congrArg State.setDone hsame
    exact ⟨u.setDone, exec_of_checkBuffers_ok herr hroutine (checkBuffers_of_not_meets hs hd hm), hdone, houtside,
      hwritten _ hinside⟩

end

end Sys2Proof.Machine
end

section
/-! The two commands that move bytes (42_buffer.md rules R111, R116): the byte each loop stores at a place of the
destination, and what the commands answer. -/

namespace Sys2Proof.Machine

/-! `ROWREV`. -/

/-- Byte `k` of the destination of `ROWREV`: byte `k % rowb` of the row that faces row `k / rowb` (rule R110). -/
def State.rowrevByte (s : State) (src rows rowb k : Nat) : Byte :=
  s.byteAt (src + (rows - 1 - k / rowb) * rowb + k % rowb)

theorem State.rowrevByte_place (s : State) (src rows i : Nat) {rowb j : Nat} (hj : j < rowb) :
    s.rowrevByte src rows rowb (i * rowb + j) = s.byteAt (src + (rows - 1 - i) * rowb + j) := by
  have hrow : (i * rowb + j) / rowb = i := by
    rw [Nat.mul_comm, Nat.mul_add_div (Nat.zero_lt_of_lt hj), Nat.div_eq_of_lt hj, Nat.add_zero]
  rw [State.rowrevByte, hrow, Nat.mul_comm, Nat.mul_add_mod_of_lt hj]

/-- Byte `j` of row `i` is a byte of the buffer. -/
theorem row_place_lt {rows rowb i j : Nat} (hi : i < rows) (hj : j < rowb) : i * rowb + j < rows * rowb :=
  calc i * rowb + j < (i + 1) * rowb := by rw [Nat.succ_mul]; omega
    _ ≤ rows * rowb := Nat.mul_le_mul_right rowb hi

/-- The inner loop fills a row of `rowb` bytes, the outer one `rows` such rows. -/
theorem filled_rowrevLoop {s : State} {src dst rows rowb : Nat} (hapart : apart src (rows * rowb) dst (rows * rowb)) :
    Filled s (rowrevLoop src dst rows rowb s) dst (rows * rowb) (s.rowrevByte src rows rowb) := by
  refine forUpTo_filled hapart fun i t hi _ ht => ?_
  have hend : i * rowb + rowb ≤ rows * rowb := Nat.succ_mul i rowb ▸ Nat.mul_le_mul_right rowb hi
  refine forUpTo_setByte_filled (apart_mono hapart (by omega) (by omega)) fun j u hj hu => ?_
  have hplace : (rows - 1 - i) * rowb + j < rows * rowb := row_place_lt (by omega) hj
  rw [State.rowrevByte_place s src rows i hj, Nat.add_assoc, hu _ hplace, ht _ hplace]

theorem doRowrev_eq (s : State) :
    doRowrev s = (checkBuffers s s.rowBytes s.rowBytes).map fun _ =>
      rowrevLoop s.src.toNat s.dst.toNat s.len.toNat s.rowb.toNat s := by
  rw [doRowrev]
  cases checkBuffers s s.rowBytes s.rowBytes <;> rfl

/-- Settles O22: the two loops fill the destination row by row from a source they do not touch. -/
theorem rowrevReversesRows : Obligations.RowrevReversesRows := by
  refine ⟨decode_rowrev, fun s herr => ?_⟩
  refine answersAsBufferCommand_of_filled (i := .rowrev) (dn := s.len.toNat * s.rowb.toNat)
    (f := s.rowrevByte s.src.toNat s.len.toNat s.rowb.toNat) herr (doRowrev_eq s.clearDone)
    (filled_rowrevLoop (s := s.clearDone)) fun t hinside i j hi hj => ?_
  rw [Nat.add_assoc, hinside _ (row_place_lt hi hj), s.rowrevByte_place _ _ _ hj]

/-! `SWAPRB`. -/

/-- Byte `k` of the destination of `SWAPRB`: byte `2 - k % 3` of pixel `k / 3` (rule R115). -/
def State.swaprbByte (s : State) (src k : Nat) : Byte := s.byteAt (src + 3 * (k / 3) + (2 - k % 3))

theorem State.swaprbByte_place (s : State) (src k : Nat) {c : Nat} (hc : c < 3) :
    s.swaprbByte src (3 * k + c) = s.byteAt (src + 3 * k + (2 - c)) := by
  have hpixel : (3 * k + c) / 3 = k := by omega
  have hchannel : (3 * k + c) % 3 = c := by omega
  rw [State.swaprbByte, hpixel, hchannel]

theorem filled_swaprbLoop {s : State} {src dst n : Nat} (hapart : apart src (3 * n) dst (3 * n)) :
    Filled s (swaprbLoop src dst n s) dst (3 * n) (s.swaprbByte src) := by
  rw [Nat.mul_comm] at hapart ⊢
  refine forUpTo_filled hapart fun k t hk _ ht => ?_
  have hbyte : ∀ c, c < 3 → t.byteAt (src + 3 * k + (2 - c)) = s.swaprbByte src (3 * k + c) := fun c hc => by
    rw [s.swaprbByte_place src k hc, Nat.add_assoc, ht _ (by omega)]
  rw [Nat.mul_comm k]
  exact filled_setRgb t _ (hbyte 0 (by decide)) (hbyte 1 (by decide)) (hbyte 2 (by decide))

theorem doSwaprb_eq (s : State) :
    doSwaprb s = (checkBuffers s s.rgbBytes s.rgbBytes).map fun _ =>
      swaprbLoop s.src.toNat s.dst.toNat s.len.toNat s := by
  rw [doSwaprb]
  cases checkBuffers s s.rgbBytes s.rgbBytes <;> rfl

/-- Settles O23: the loop fills the destination pixel by pixel from a source it does not touch. -/
theorem swaprbExchangesRedAndBlue : Obligations.SwaprbExchangesRedAndBlue := by
  refine ⟨decode_swaprb, fun s herr => ?_⟩
  refine answersAsBufferCommand_of_filled (i := .swaprb) (dn := 3 * s.len.toNat)
    (f := s.swaprbByte s.src.toNat) herr (doSwaprb_eq s.clearDone) (filled_swaprbLoop (s := s.clearDone))
    fun t hinside k hk => ?_
  have hbyte : ∀ c, c < 3 → t.byteAt (s.dst.toNat + 3 * k + c) = s.byteAt (s.src.toNat + 3 * k + (2 - c)) :=
    fun c hc => by rw [Nat.add_assoc, hinside _ (by omega), s.swaprbByte_place _ _ hc]
  exact ⟨hbyte 0 (by decide), hbyte 1 (by decide), hbyte 2 (by decide)⟩

end Sys2Proof.Machine
end

section
/-! The command `CONV` (43_convert.md rules R127, R128): its word as a number, what its checks accept, and what its
routine answers to an operand they accept and to one they do not. -/

namespace Sys2Proof.Machine

/-- Rule R63: the fields of a `CONV` word lie side by side, so that their union is their sum. -/
theorem formatC_eq (sb db : BitVec 4) :
    formatC sb db = BitVec.ofNat 32 (db.toNat * 4096 + sb.toNat * 256 + 4) := by
  revert sb db
  decide

/-- Both widths are 1 to 8 and the operand is a value of the source width: what rule R128 lets `CONV` work on. -/
def State.convertible (s : State) (sb db : Nat) : Prop :=
  (1 ≤ sb ∧ sb ≤ 8) ∧ (1 ≤ db ∧ db ≤ 8) ∧ s.opa.toNat ≤ 2 ^ sb - 1

theorem doConv_of_convertible {s : State} {sb db : Nat} (h : s.convertible sb db) :
    doConv sb db s = .ok { s with res := BitVec.ofNat 32 (convert s.opa.toNat sb db) } := by
  rw [State.convertible, ← widthOk_iff, ← widthOk_iff] at h
  obtain ⟨-, -, -, hok⟩ | ⟨hnot, -⟩ := checkConvert_cases s sb db
  · rw [doConv, hok]
  · exact absurd h hnot

theorem doConv_of_not_convertible {s : State} {sb db : Nat} (h : ¬ s.convertible sb db) :
    doConv sb db s = .error ⟨.param, 0⟩ := by
  rw [State.convertible, ← widthOk_iff, ← widthOk_iff] at h
  obtain ⟨hsb, hdb, hopa, -⟩ | ⟨-, herror⟩ := checkConvert_cases s sb db
  · exact absurd ⟨hsb, hdb, hopa⟩ h
  · rw [doConv, herror]

section
variable {s : State} {sb db : BitVec 4} (herr : s.err = false)
include herr

/-- The routine runs on `s.clearDone`, which has the operand of `s`. -/
theorem exec_conv_of_convertible (h : s.convertible sb.toNat db.toNat) :
    exec (.conv sb db) s =
      .next { s with done := true, res := BitVec.ofNat 32 (convert s.opa.toNat sb.toNat db.toNat) } := by
  have hbody : routine (.conv sb db) s.clearDone =
      .ok { s.clearDone with res := BitVec.ofNat 32 (convert s.opa.toNat sb.toNat db.toNat) } :=
    doConv_of_convertible (s := s.clearDone) h
  rw [exec_eq, runCommand_ok herr hbody]
  rfl

theorem exec_conv_of_not_convertible (h : ¬ s.convertible sb.toNat db.toNat) :
    exec (.conv sb db) s = .next (s.failed (formatC sb db) 2 0) := by
  have hbody : routine (.conv sb db) s.clearDone = .error ⟨.param, 0⟩ :=
    doConv_of_not_convertible (s := s.clearDone) h
  rw [exec_eq, runCommand_error herr hbody]
  rfl

end

/-- Settles O24, on whether the checks of rule R128 accept the widths and the operand. -/
theorem convRescalesItsOperand : Obligations.ConvRescalesItsOperand := by
  intro s sb db herr
  refine ⟨?_, fun hsb1 hsb8 hdb1 hdb8 hopa => ?_, fun hout => ?_⟩
  · rw [convWordCarriesBothWidths, BitVec.toNat_ofNat]
    omega
  · exact exec_conv_of_convertible herr ⟨⟨hsb1, hsb8⟩, ⟨hdb1, hdb8⟩, hopa⟩
  · have hnot : ¬ s.convertible sb.toNat db.toNat := by
      unfold State.convertible
      omega
    rw [exec_conv_of_not_convertible herr hnot, formatC_eq]

end Sys2Proof.Machine
end

section
/-! Packing and unpacking a pixel (44_pack_unpack.md rules R135, R136): the fields of a 16-bit pixel and the channels
of a 24-bit one as numbers. -/

namespace Sys2Proof.Machine

/-- A value of the source width converts to a value of the destination width (43_convert.md rule R125). -/
theorem convert_le {c s : Nat} (hc : c ≤ 2 ^ s - 1) (d : Nat) : convert c s d ≤ 2 ^ d - 1 :=
  Nat.div_le_of_le_mul (Nat.mul_le_mul_right _ hc)

/-- Fields of 5, 6 and 5 bits side by side: their union is their sum. -/
theorem fields_or_eq_add {r g b : Nat} (hg : g < 2 ^ 6) (hb : b < 2 ^ 5) :
    (r <<< 11) ||| (g <<< 5) ||| b = r * 2048 + g * 32 + b := by
  have hlow : g <<< 5 + b < 2 ^ 11 := by rw [Nat.shiftLeft_eq]; omega
  rw [Nat.or_assoc, ← Nat.shiftLeft_add_eq_or_of_lt hb, ← Nat.shiftLeft_add_eq_or_of_lt hlow,
    Nat.shiftLeft_eq, Nat.shiftLeft_eq, Nat.add_assoc]

/-- Rule R135: no field reaches into another, and all three fit in 16 bits. -/
theorem toNat_pack565 (c : Channels) :
    (pack565 c).toNat =
      convert c.r8.toNat 8 5 * 2048 + convert c.g8.toNat 8 6 * 32 + convert c.b8.toNat 8 5 := by
  have hr := convert_le (Nat.le_sub_one_of_lt c.r8.isLt) 5
  have hg := convert_le (Nat.le_sub_one_of_lt c.g8.isLt) 6
  have hb := convert_le (Nat.le_sub_one_of_lt c.b8.isLt) 5
  rw [pack565, fields_or_eq_add (by omega) (by omega), BitVec.toNat_ofNat, Nat.mod_eq_of_lt (by omega)]

theorem redField_eq (p : Pixel) : redField p = p.toNat / 2048 := by
  have hp := p.isLt
  rw [redField, BitVec.extractLsb'_toNat, Nat.shiftRight_eq_div_pow]
  omega

theorem greenField_eq (p : Pixel) : greenField p = p.toNat / 32 % 64 := by
  rw [greenField, BitVec.extractLsb'_toNat, Nat.shiftRight_eq_div_pow]

theorem blueField_eq (p : Pixel) : blueField p = p.toNat % 32 := by
  rw [blueField, BitVec.extractLsb'_toNat, Nat.shiftRight_zero]

/-- A field of `n` bits widens to a byte. -/
theorem toNat_ofNat_convert {n : Nat} (x : BitVec n) :
    (BitVec.ofNat 8 (convert x.toNat n 8)).toNat = convert x.toNat n 8 := by
  have hx := convert_le (Nat.le_sub_one_of_lt x.isLt) 8
  rw [BitVec.toNat_ofNat, Nat.mod_eq_of_lt (by omega)]

theorem toNat_unpack565_r8 (p : Pixel) : (unpack565 p).r8.toNat = convert (p.toNat / 2048) 5 8 := by
  rw [← redField_eq]
  exact toNat_ofNat_convert _

theorem toNat_unpack565_g8 (p : Pixel) : (unpack565 p).g8.toNat = convert (p.toNat / 32 % 64) 6 8 := by
  rw [← greenField_eq]
  exact toNat_ofNat_convert _

theorem toNat_unpack565_b8 (p : Pixel) : (unpack565 p).b8.toNat = convert (p.toNat % 32) 5 8 := by
  rw [← blueField_eq]
  exact toNat_ofNat_convert _

/-- Settles O48: the fields of a packed pixel lie side by side, and a widened field is a byte. -/
theorem packedFieldsAreTheConvertedChannels : Obligations.PackedFieldsAreTheConvertedChannels :=
  ⟨toNat_pack565, fun p => ⟨toNat_unpack565_r8 p, toNat_unpack565_g8 p, toNat_unpack565_b8 p⟩⟩

end Sys2Proof.Machine
end

section
/-! The two commands that convert pixels (44_pack_unpack.md rules R138, R140): the pixels their loops read and store,
and what the commands answer. -/

namespace Sys2Proof.Machine

/-! Pixels in buffer memory. -/

/-- Rule R44 of 20_memory.md: the two bytes a pixel is stored as make up the pixel, high byte first. -/
theorem toNat_pixel_bytes (p : Pixel) :
    (p.extractLsb' 8 8).toNat * 256 + (p.extractLsb' 0 8).toNat = p.toNat := by
  have hp := p.isLt
  simp only [BitVec.extractLsb'_toNat, Nat.shiftRight_eq_div_pow]
  omega

theorem State.toNat_pixelAt (s : State) (a : Nat) :
    (s.pixelAt a).toNat = (s.byteAt a).toNat * 256 + (s.byteAt (a + 1)).toNat := by
  rw [State.pixelAt, BitVec.toNat_append, ← Nat.shiftLeft_add_eq_or_of_lt (s.byteAt (a + 1)).isLt, Nat.shiftLeft_eq]

theorem pixelAt_of_sameBytes {s t : State} {base n k : Nat} (h : sameBytes s t base n) (hk : k + 1 < n) :
    t.pixelAt (base + k) = s.pixelAt (base + k) := by
  rw [State.pixelAt, State.pixelAt, Nat.add_assoc, h k (by omega), h (k + 1) hk]

theorem rgbAt_of_sameBytes {s t : State} {base n k : Nat} (h : sameBytes s t base n) (hk : k + 2 < n) :
    t.rgbAt (base + k) = s.rgbAt (base + k) := by
  rw [State.rgbAt, State.rgbAt, Nat.add_assoc, Nat.add_assoc, h k (by omega), h (k + 1) (by omega), h (k + 2) hk]

theorem order_of_sameButMemory {s t : State} (h : sameButMemory s t) : t.order = s.order := by
  rw [sameButMemory] at h
  rw [h]

theorem filled_setPixel (s : State) (a : Nat) {p : Pixel} {f : Nat → Byte} (h0 : p.extractLsb' 8 8 = f 0)
    (h1 : p.extractLsb' 0 8 = f 1) : Filled s (s.setPixel a p) a 2 f where
  sameButMemory := sameButMemory_setPixel s a p
  outside b hb := by
    unfold outsideRange at hb
    rw [State.byteAt_setPixel, if_neg (by omega), if_neg (by omega)]
  inside k hk := by
    rw [State.byteAt_setPixel]
    obtain rfl | rfl : k = 0 ∨ k = 1 := by omega
    · simpa using h0
    · simpa using h1

/-- Rule R137: which byte is red and which is blue, by `CTRL.ORDER`; green is always the middle one. -/
theorem channelsOf_eq (o : ChannelOrder) (p : Rgb24) :
    channelsOf o p = ⟨if o = .bgr then p.b2 else p.b0, p.b1, if o = .bgr then p.b0 else p.b2⟩ := by
  cases o <;> rfl

theorem bytesOf_eq (o : ChannelOrder) (c : Channels) :
    bytesOf o c = ⟨if o = .bgr then c.b8 else c.r8, c.g8, if o = .bgr then c.r8 else c.b8⟩ := by
  cases o <;> rfl

/-! `PACK`. -/

/-- The pixel `PACK` makes of pixel `k` of the source (rule R138). -/
def State.packedPixel (s : State) (src k : Nat) : Pixel := pack565 (channelsOf s.order (s.rgbAt (src + 3 * k)))

/-- Byte `k` of the destination of `PACK`: the high or the low byte of pixel `k / 2`. -/
def State.packedByte (s : State) (src k : Nat) : Byte :=
  if k % 2 = 0 then (s.packedPixel src (k / 2)).extractLsb' 8 8 else (s.packedPixel src (k / 2)).extractLsb' 0 8

theorem State.packedByte_high (s : State) (src k : Nat) :
    s.packedByte src (2 * k) = (s.packedPixel src k).extractLsb' 8 8 := by
  rw [State.packedByte, if_pos (by omega), Nat.mul_div_cancel_left k Nat.two_pos]

theorem State.packedByte_low (s : State) (src k : Nat) :
    s.packedByte src (2 * k + 1) = (s.packedPixel src k).extractLsb' 0 8 := by
  have hpixel : (2 * k + 1) / 2 = k := by omega
  rw [State.packedByte, if_neg (by omega), hpixel]

/-- Rules R135 and R137: the packed pixel as a number, from the three bytes of the source pixel. -/
theorem State.toNat_packedPixel (s : State) (src k : Nat) :
    (s.packedPixel src k).toNat =
      (if s.order = .bgr then (s.byteAt (src + 3 * k + 2)).toNat else (s.byteAt (src + 3 * k)).toNat) * 31 / 255
          * 2048 +
        (s.byteAt (src + 3 * k + 1)).toNat * 63 / 255 * 32 +
        (if s.order = .bgr then (s.byteAt (src + 3 * k)).toNat else (s.byteAt (src + 3 * k + 2)).toNat) * 31 / 255 := by
  rw [State.packedPixel, toNat_pack565, channelsOf_eq, ← apply_ite BitVec.toNat, ← apply_ite BitVec.toNat]
  rfl

theorem filled_packLoop {s : State} {src dst n : Nat} (hapart : apart src (3 * n) dst (2 * n)) :
    Filled s (packLoop src dst n s) dst (2 * n) (s.packedByte src) := by
  rw [Nat.mul_comm 2] at hapart ⊢
  refine forUpTo_filled hapart fun k t hk hsame ht => ?_
  have hpixel : t.packedPixel src k = s.packedPixel src k := by
    rw [State.packedPixel, order_of_sameButMemory hsame, rgbAt_of_sameBytes ht (by omega), State.packedPixel]
  rw [Nat.mul_comm k]
  have hfill : Filled t (t.setPixel (dst + 2 * k) (s.packedPixel src k)) (dst + 2 * k) 2
      (fun c => s.packedByte src (2 * k + c)) :=
    filled_setPixel t _ (s.packedByte_high src k).symm (s.packedByte_low src k).symm
  rwa [← hpixel] at hfill

theorem doPack_eq (s : State) :
    doPack s = (checkBuffers s s.rgbBytes s.packedBytes).map fun _ =>
      packLoop s.src.toNat s.dst.toNat s.len.toNat s := by
  rw [doPack]
  cases checkBuffers s s.rgbBytes s.packedBytes <;> rfl

/-- Settles O25: the loop fills the destination pixel by pixel from a source it does not touch, and the two bytes of
a stored pixel make up its number. -/
theorem packNarrowsEachPixel : Obligations.PackNarrowsEachPixel := by
  refine ⟨decode_pack, fun s herr => ?_⟩
  refine answersAsBufferCommand_of_filled (i := .pack) (sn := 3 * s.len.toNat) (dn := 2 * s.len.toNat)
    (f := s.packedByte s.src.toNat) herr (doPack_eq s.clearDone) (filled_packLoop (s := s.clearDone))
    fun t hinside k hk => ?_
  rw [Nat.add_assoc s.dst.toNat, hinside _ (by omega), hinside _ (by omega), s.packedByte_high, s.packedByte_low,
    toNat_pixel_bytes]
  exact s.toNat_packedPixel _ k

/-! `UNPACK`. -/

/-- The 24-bit pixel `UNPACK` makes of pixel `k` of the source (rule R140). -/
def State.unpackedPixel (s : State) (src k : Nat) : Rgb24 :=
  bytesOf s.order (unpack565 (s.pixelAt (src + 2 * k)))

/-- The bytes of a 24-bit pixel by their places, 0 to 2. -/
def Rgb24.byte (p : Rgb24) : Nat → Byte
  | 0 => p.b0
  | 1 => p.b1
  | _ => p.b2

/-- Byte `k` of the destination of `UNPACK`: byte `k % 3` of pixel `k / 3`. -/
def State.unpackedByte (s : State) (src k : Nat) : Byte := (s.unpackedPixel src (k / 3)).byte (k % 3)

theorem State.unpackedByte_place (s : State) (src k : Nat) {c : Nat} (hc : c < 3) :
    s.unpackedByte src (3 * k + c) = (s.unpackedPixel src k).byte c := by
  have hpixel : (3 * k + c) / 3 = k := by omega
  have hbyte : (3 * k + c) % 3 = c := by omega
  rw [State.unpackedByte, hpixel, hbyte]

/-- Rules R136 and R137: the bytes of the unpacked pixel as numbers, from the number of the source pixel. -/
theorem State.toNat_unpackedPixel (s : State) (src k : Nat) :
    (s.unpackedPixel src k).b0.toNat =
      (if s.order = .bgr then (s.pixelAt (src + 2 * k)).toNat % 32 * 255 / 31
        else (s.pixelAt (src + 2 * k)).toNat / 2048 * 255 / 31) ∧
    (s.unpackedPixel src k).b1.toNat = (s.pixelAt (src + 2 * k)).toNat / 32 % 64 * 255 / 63 ∧
    (s.unpackedPixel src k).b2.toNat =
      (if s.order = .bgr then (s.pixelAt (src + 2 * k)).toNat / 2048 * 255 / 31
        else (s.pixelAt (src + 2 * k)).toNat % 32 * 255 / 31) := by
  simp only [State.unpackedPixel, bytesOf_eq, apply_ite BitVec.toNat, toNat_unpack565_r8, toNat_unpack565_g8,
    toNat_unpack565_b8]
  exact ⟨rfl, rfl, rfl⟩

theorem filled_unpackLoop {s : State} {src dst n : Nat} (hapart : apart src (2 * n) dst (3 * n)) :
    Filled s (unpackLoop src dst n s) dst (3 * n) (s.unpackedByte src) := by
  rw [Nat.mul_comm 3] at hapart ⊢
  refine forUpTo_filled hapart fun k t hk hsame ht => ?_
  have hpixel : t.unpackedPixel src k = s.unpackedPixel src k := by
    rw [State.unpackedPixel, order_of_sameButMemory hsame, pixelAt_of_sameBytes ht (by omega), State.unpackedPixel]
  rw [Nat.mul_comm k]
  have hplace : ∀ c, c < 3 → (s.unpackedPixel src k).byte c = s.unpackedByte src (3 * k + c) := fun c hc =>
    (s.unpackedByte_place src k hc).symm
  have hfill : Filled t (t.setRgb (dst + 3 * k) (s.unpackedPixel src k)) (dst + 3 * k) 3
      (fun c => s.unpackedByte src (3 * k + c)) :=
    filled_setRgb t _ (hplace 0 (by decide)) (hplace 1 (by decide)) (hplace 2 (by decide))
  rwa [← hpixel] at hfill

theorem doUnpack_eq (s : State) :
    doUnpack s = (checkBuffers s s.packedBytes s.rgbBytes).map fun _ =>
      unpackLoop s.src.toNat s.dst.toNat s.len.toNat s := by
  rw [doUnpack]
  cases checkBuffers s s.packedBytes s.rgbBytes <;> rfl

/-- Settles O26: the loop fills the destination pixel by pixel from a source it does not touch. -/
theorem unpackWidensEachPixel : Obligations.UnpackWidensEachPixel := by
  refine ⟨decode_unpack, fun s herr => ?_⟩
  refine answersAsBufferCommand_of_filled (i := .unpack) (sn := 2 * s.len.toNat) (dn := 3 * s.len.toNat)
    (f := s.unpackedByte s.src.toNat) herr (doUnpack_eq s.clearDone) (filled_unpackLoop (s := s.clearDone))
    fun t hinside k hk => ?_
  have hbyte : ∀ c, c < 3 →
      (t.byteAt (s.dst.toNat + 3 * k + c)).toNat = ((s.unpackedPixel s.src.toNat k).byte c).toNat := fun c hc => by
    rw [Nat.add_assoc, hinside _ (by omega), s.unpackedByte_place _ k hc]
  obtain ⟨h0, h1, h2⟩ := s.toNat_unpackedPixel s.src.toNat k
  rw [← s.toNat_pixelAt]
  exact ⟨(hbyte 0 (by decide)).trans h0, (hbyte 1 (by decide)).trans h1, (hbyte 2 (by decide)).trans h2⟩

end Sys2Proof.Machine
end

section
/-! The words of the commands (30_encoding.md rules R62 to R64): a legal word is the word of the command it decodes to,
and a word of one of the four kinds of 60_exceptions.md rule R152 is not legal. -/

namespace Sys2Proof

/-- Rule R60: a word whose other fields are zero is its opcode. -/
theorem toNat_eq_opField {w : Word} (hz : ¬ (z1Field w ≠ 0 ∨ z0Field w ≠ 0))
    (hwidths : ¬ (sbitsField w ≠ 0 ∨ dbitsField w ≠ 0)) : w.toNat = (opField w).toNat := by
  simp only [ne_eq, not_or, not_not] at hz hwidths
  simp [toNat_eq_fields w, hz, hwidths]

theorem encode_eq_of_decode {w : Word} {i : Instr} (h : decode w = .ok i) : encode i = w := by
  have hdec := h
  apply BitVec.eq_of_toNat_eq
  unfold decode at h
  split_ifs at h with hz hconv hwidths hop hop hop hop hop hop <;> obtain rfl := Except.ok.inj h
  · have hw := (convWordCarriesBothWidths w _ _).1 hdec
    rw [encode, Machine.formatC_eq, BitVec.toNat_ofNat]
    omega
  all_goals
    rw [toNat_eq_opField hz hwidths, hop]
    rfl

/-- The four kinds of illegal word of rule R152: no command has such a word. -/
theorem decode_error_of_illegal {w : Word}
    (h : w.toNat / 2 ^ 16 ≠ 0 ∨ w.toNat / 16 % 16 ≠ 0 ∨ 7 ≤ w.toNat % 16 ∨
      (w.toNat % 16 ≠ 4 ∧ w.toNat / 256 % 256 ≠ 0)) : ∃ e, decode w = .error e := by
  cases hdec : decode w with
  | error e => exact ⟨e, rfl⟩
  | ok i =>
    cases i with
    | conv sb db =>
      have hw := (convWordCarriesBothWidths w sb db).1 hdec
      omega
    | _ =>
      obtain rfl := encode_eq_of_decode hdec
      exact absurd h (by decide)

end Sys2Proof
end

section
/-! Errors (60_exceptions.md): what a failing command records (rules R152, R157, R158), that nothing but a command
sets `ERR` (rule R150), and the acknowledgement (rule R160). -/

namespace Sys2Proof.Machine

/-! The record of errors. -/

/-- `s` and `t` have recorded the same: `ERR`, `ECODE`, `FADDR` and `FCMD` agree. -/
structure SameRecord (s t : State) : Prop where
  err : t.err = s.err
  ecode : t.ecode = s.ecode
  faddr : t.faddr = s.faddr
  fcmd : t.fcmd = s.fcmd

theorem sameRecord_refl (s : State) : SameRecord s s := ⟨rfl, rfl, rfl, rfl⟩

theorem sameRecord_of_sameButMemory {s t : State} (h : sameButMemory s t) : SameRecord s t := by
  rw [sameButMemory] at h
  rw [h]
  exact ⟨rfl, rfl, rfl, rfl⟩

/-! The routines write no record: the record is made by the frame around them (40_command_execution.md rule R83). -/

theorem doSum_eq (s : State) :
    doSum s = (checkSource s s.lenBytes).map fun _ =>
      { s with csum := sumLoop s s.src.toNat s.lenBytes s.csum } := by
  rw [doSum]
  cases checkSource s s.lenBytes <;> rfl

theorem doConv_eq (sb db : Nat) (s : State) :
    doConv sb db s = (checkConvert s sb db).map fun _ =>
      { s with res := BitVec.ofNat 32 (convert s.opa.toNat sb db) } := by
  rw [doConv]
  cases checkConvert s sb db <;> rfl

/-- A checked routine that answers a state answers the one it computes behind its check. -/
theorem eq_of_map_check {check : Except CommandError Unit} {u t : State} (h : (check.map fun _ => u) = .ok t) :
    t = u := by
  cases check with
  | error e => cases h
  | ok _ => exact (Except.ok.inj h).symm

theorem routine_sameRecord {i : Instr} {s t : State} (h : routine i s = .ok t) : SameRecord s t := by
  cases i with
  | nop =>
    obtain rfl := Except.ok.inj h
    exact sameRecord_refl s
  | sum =>
    obtain rfl := eq_of_map_check ((doSum_eq s).symm.trans h)
    exact ⟨rfl, rfl, rfl, rfl⟩
  | rowrev =>
    obtain rfl := eq_of_map_check ((doRowrev_eq s).symm.trans h)
    exact sameRecord_of_sameButMemory (rowrevLoop_sameButMemory _ _ _ _ s)
  | swaprb =>
    obtain rfl := eq_of_map_check ((doSwaprb_eq s).symm.trans h)
    exact sameRecord_of_sameButMemory (swaprbLoop_sameButMemory _ _ _ s)
  | conv sb db =>
    obtain rfl := eq_of_map_check ((doConv_eq _ _ s).symm.trans h)
    exact ⟨rfl, rfl, rfl, rfl⟩
  | pack =>
    obtain rfl := eq_of_map_check ((doPack_eq s).symm.trans h)
    exact sameRecord_of_sameButMemory (packLoop_sameButMemory _ _ _ s)
  | unpack =>
    obtain rfl := eq_of_map_check ((doUnpack_eq s).symm.trans h)
    exact sameRecord_of_sameButMemory (unpackLoop_sameButMemory _ _ _ s)

/-! What `Execute` does with a word while `ERR` = 0. -/

theorem clearDone_raiseError (s : State) (w : Word) (e : CommandError) :
    s.clearDone.raiseError w e = s.failed w e.code.number e.info := rfl

/-- Rule R152: an illegal word raises `ILLEGAL`. -/
theorem execute_illegal {s : State} {w : Word} {e : Illegal} (herr : s.err = false) (h : decode w = .error e) :
    execute w s = .next (s.failed w 1 0) := by
  rw [execute, h]
  exact congrArg Host.Outcome.next
    ((runCommand_error (e := ⟨.illegal, 0⟩) herr rfl).trans (clearDone_raiseError s w _))

/-- Rule R83: a legal word runs its routine in the frame, which names that very word. -/
theorem execute_legal {s : State} {w : Word} {i : Instr} (h : decode w = .ok i) :
    execute w s = .next (runCommand w (routine i) s) := by
  rw [execute, h, ← encode_eq_of_decode h]
  exact exec_eq i s

/-- Everything `Execute` can leave behind while `ERR` = 0: the record of a failure and no other change, or `DONE` = 1
and the record as it was. -/
theorem execute_next {s t : State} {w : Word} (herr : s.err = false) (h : execute w s = .next t) :
    (∃ code info, t = s.failed w code info) ∨ (t.done = true ∧ SameRecord s t) := by
  cases hdec : decode w with
  | error e =>
    rw [execute_illegal herr hdec] at h
    exact .inl ⟨1, 0, (Host.Outcome.next.inj h).symm⟩
  | ok i =>
    rw [execute_legal hdec] at h
    obtain rfl := Host.Outcome.next.inj h
    obtain ⟨htrue, -⟩ | ⟨-, e, -, hrun⟩ | ⟨-, u, hbody, hrun⟩ := runCommand_cases w (routine i) s
    · simp [herr] at htrue
    · exact .inl ⟨_, _, hrun.trans (clearDone_raiseError s w e)⟩
    · obtain ⟨hE, hcode, haddr, hcmd⟩ := routine_sameRecord hbody
      rw [hrun]
      exact .inr ⟨rfl, hE, hcode, haddr, hcmd⟩

/-! `ERR` under the other transactions. -/

/-- Rules R150, R160: a register write may clear `ERR` but does not set it. -/
theorem writeReg_err_of_err_eq_false {s : State} (h : s.err = false) (r : RegName) (v : Word) :
    (s.writeReg r v).err = false := by
  cases r with
  | status =>
    rw [State.writeReg_status]
    exact ite_eq_left_iff.2 fun _ => h
  | _ => exact h

/-- Rule R150: the transaction that sets `ERR` is a write to `CMD`. -/
theorem transact_setsErr {tr : Transaction} {s t : State} (h : transact tr s = .next t) (hs : s.err = false)
    (ht : t.err = true) : ∃ w, tr = .command w := by
  obtain ⟨off, -, -, rfl⟩ | ⟨off, v, htr, -, hwrite⟩ | ⟨a, -, -, rfl⟩ | ⟨a, b, -, -, rfl⟩ | ⟨-, rfl⟩ :=
    transact_next h
  · simp [hs] at ht
  · obtain ⟨rfl, -⟩ | ⟨r, -, -, rfl⟩ | ⟨-, rfl⟩ := hwrite
    · exact ⟨v, htr⟩
    · simp [writeReg_err_of_err_eq_false hs] at ht
    · simp [hs] at ht
  · simp [hs] at ht
  · simp [hs] at ht
  · simp at ht

/-! The statements. -/

/-- Settles O7: no command has a word of the four kinds, and the frame around a word that is no command's records it. -/
theorem illegalWordIsRecorded : Obligations.IllegalWordIsRecorded := by
  intro s rest w h herr hkinds
  obtain ⟨e, hdec⟩ := decode_error_of_illegal hkinds
  have hstep : step s = execute w { s with script := rest } := step_regWrite h (by decide) (by decide)
  exact hstep.trans (execute_illegal herr hdec)

/-- Settles O32, on the two ways a command can end. -/
theorem failingCommandChangesOnlyTheRecord : Obligations.FailingCommandChangesOnlyTheRecord := by
  intro w s t herr h
  obtain ⟨code, info, rfl⟩ | ⟨hdone, hE, hcode, haddr, hcmd⟩ := execute_next herr h
  · exact ⟨fun _ => rfl, fun hfalse => Bool.noConfusion hfalse⟩
  · exact ⟨fun htrue => absurd (hE.symm.trans htrue) (by simp [herr]), fun _ => ⟨hdone, hcode, haddr, hcmd⟩⟩

/-- Settles O56: the one transaction of a step sets `ERR` only as a write to `CMD`. -/
theorem onlyACommandSetsErr : Obligations.OnlyACommandSetsErr := by
  intro s t h hs ht
  obtain ⟨tr, rest, hscript, htransact⟩ := step_next h
  obtain ⟨w, rfl⟩ := transact_setsErr htransact hs ht
  exact ⟨w, rest, hscript⟩

/-- Settles O12: the row of `STATUS` among the register writes, with bit 1 set. -/
theorem acknowledgeClearsTheError : Obligations.AcknowledgeClearsTheError := by
  intro s rest v h hbit
  rw [registerWriteDoes s rest 0x08 v h (by decide) (by decide)]
  simp [hbit]

end Sys2Proof.Machine
end

section
/-! The legal words (30_encoding.md): a word and its command determine each other (rules R62 to R64), the opcode table
read apart from the decoder (rule R64), and the list of the 262 legal words (rule R66). -/

namespace Sys2Proof

/-! The decoder and the encoder. -/

theorem decode_encode (i : Instr) : decode (encode i) = .ok i := by
  cases i with
  | conv sb db =>
    rw [convWordCarriesBothWidths, encode, Machine.formatC_eq, BitVec.toNat_ofNat]
    omega
  | _ => decide

/-- Settles O1: a legal word is the word of its command, and the word of a command decodes to it. -/
theorem decodeInvertsEncode : Obligations.DecodeInvertsEncode := fun _ i =>
  ⟨fun h => (encode_eq_of_decode h).symm, fun h => h ▸ decode_encode i⟩

theorem legal_iff_encode (w : Word) : (∃ i, decode w = .ok i) ↔ ∃ i, encode i = w :=
  exists_congr fun i => (decodeInvertsEncode w i).trans eq_comm

theorem encode_injective : Function.Injective encode := fun i j h => by
  have hdec := decode_encode j
  rw [← h, decode_encode] at hdec
  exact Except.ok.inj hdec

/-- Settles O5: `Decode` run on each of the words. -/
theorem sampleWordsDecode : Obligations.SampleWordsDecode := by
  unfold Obligations.SampleWordsDecode
  decide

/-! The opcode table. -/

/-- The bits that every row of the table fixes: all but the two width fields. -/
def fixedBits : Word := 0xFFFF00FF

/-- A row fixes the bits outside the width fields, to those of its pattern. -/
theorem pattern_of_selects {w : Word} {r : OpcodeRow} (hr : r ∈ opcodeRows) (h : r.selects w = true) :
    w &&& fixedBits = r.pattern := by
  have hrows : ∀ r ∈ opcodeRows, r.mask &&& fixedBits = fixedBits ∧ r.pattern &&& fixedBits = r.pattern := by decide
  obtain ⟨hmask, hpattern⟩ := hrows r hr
  rw [← hpattern, ← beq_iff_eq.1 h, BitVec.and_assoc, hmask]

/-- The row of `CONV` leaves the width fields free and fixes the other three. -/
theorem conv_of_fixedBits {w : Word} (h : w &&& fixedBits = 4) :
    decode w = .ok (.conv (sbitsField w) (dbitsField w)) := by
  have hfield : ∀ start len, w.extractLsb' start len &&& fixedBits.extractLsb' start len =
      (4 : Word).extractLsb' start len := fun start len => by rw [← h, BitVec.extractLsb'_and]
  have hones : ∀ {n : Nat} {x y : BitVec n}, x &&& BitVec.allOnes n = y → x = y := fun hx => by
    rwa [BitVec.and_allOnes] at hx
  exact (decode_eq_conv_iff _ _ _).2
    ⟨hones (hfield 16 16), rfl, rfl, hones (hfield 4 4), hones (hfield 0 4)⟩

/-- A word that selects a row is legal: the row of `CONV` fixes all but the widths, and every other row the whole
word. -/
theorem legal_of_selects {w : Word} {r : OpcodeRow} (hr : r ∈ opcodeRows) (h : r.selects w = true) :
    ∃ i, decode w = .ok i := by
  have hrows : ∀ r ∈ opcodeRows,
      r.pattern = 4 ∨ (r.mask = BitVec.allOnes 32 ∧ (decode r.pattern).isOk = true) := by decide
  obtain hconv | ⟨hmask, hlegal⟩ := hrows r hr
  · exact ⟨_, conv_of_fixedBits ((pattern_of_selects hr h).trans hconv)⟩
  · have hw : w = r.pattern := by
      rw [← beq_iff_eq.1 h, hmask, BitVec.and_allOnes]
    rw [hw]
    cases hdec : decode r.pattern with
    | ok i => exact ⟨i, rfl⟩
    | error e => rw [hdec] at hlegal; cases hlegal

theorem encode_selects_its_row (i : Instr) :
    ∃ r ∈ opcodeRows, r.mnemonic = i.mnemonic ∧ r.selects (encode i) = true := by
  cases i with
  | nop => exact Laws.EncodesToItsRow.nop
  | sum => exact Laws.EncodesToItsRow.sum
  | rowrev => exact Laws.EncodesToItsRow.rowrev
  | swaprb => exact Laws.EncodesToItsRow.swaprb
  | conv sb db => exact Laws.EncodesToItsRow.conv sb db
  | pack => exact Laws.EncodesToItsRow.pack
  | unpack => exact Laws.EncodesToItsRow.unpack

/-- Settles O2: the word of a command selects its row, a word that selects a row is legal, and the patterns of the rows
differ in the bits that every row fixes. -/
theorem decodeAgreesWithOpcodeTable : Obligations.DecodeAgreesWithOpcodeTable := by
  refine ⟨fun w => ?_, fun w i h => ?_, fun w r₁ hr₁ r₂ hr₂ h₁ h₂ => ?_⟩
  · rw [wellFormedWord, List.any_eq_true]
    constructor
    · rintro ⟨i, h⟩
      obtain ⟨r, hr, -, hsel⟩ := encode_selects_its_row i
      exact ⟨r, hr, encode_eq_of_decode h ▸ hsel⟩
    · rintro ⟨r, hr, hsel⟩
      exact legal_of_selects hr hsel
  · exact encode_eq_of_decode h ▸ encode_selects_its_row i
  · have hrows : ∀ r₁ ∈ opcodeRows, ∀ r₂ ∈ opcodeRows, r₁.pattern = r₂.pattern → r₁ = r₂ := by decide
    exact hrows r₁ hr₁ r₂ hr₂ ((pattern_of_selects hr₁ h₁).symm.trans (pattern_of_selects hr₂ h₂))

/-! The list of the legal words. -/

/-- The commands, each once: the six of Format Z, and `CONV` with every pair of widths. -/
def allCommands : List Instr :=
  [.nop, .sum, .rowrev, .swaprb, .pack, .unpack] ++
    (List.finRange 16 ×ˢ List.finRange 16).map fun sd => .conv (BitVec.ofFin sd.1) (BitVec.ofFin sd.2)

theorem mem_allCommands (i : Instr) : i ∈ allCommands := by
  rw [allCommands, List.mem_append, List.mem_map]
  cases i with
  | conv sb db => exact .inr ⟨(sb.toFin, db.toFin), by simp, rfl⟩
  | _ => exact .inl (by decide)

theorem nodup_allCommands : allCommands.Nodup := by
  refine List.Nodup.append (by decide) (.map ?_ ((List.nodup_finRange 16).product (List.nodup_finRange 16))) ?_
  · rintro ⟨s, d⟩ ⟨s', d'⟩ h
    simpa using h
  · intro i hzero hconv
    obtain ⟨_, -, rfl⟩ := List.mem_map.1 hconv
    simp at hzero

theorem length_allCommands : allCommands.length = 262 := by
  simp [allCommands, List.length_product]

/-- Rule R66: the words of Format Z by themselves, those of Format C by the digits of their number. -/
theorem exists_encode_iff (w : Word) :
    (∃ i, encode i = w) ↔ (w ∈ ([0x0, 0x1, 0x2, 0x3, 0x5, 0x6] : List Word) ∨
      ∃ d s : Nat, d < 16 ∧ s < 16 ∧ w.toNat = d * 4096 + s * 256 + 4) := by
  constructor
  · rintro ⟨i, rfl⟩
    cases i with
    | conv sb db =>
      have hw := (convWordCarriesBothWidths _ sb db).1 (decode_encode (.conv sb db))
      exact .inr ⟨db.toNat, sb.toNat, db.isLt, sb.isLt, hw⟩
    | _ => exact .inl (by simp [encode])
  · rintro (hmem | ⟨d, s, hd, hs, hw⟩)
    · simp only [List.mem_cons, List.not_mem_nil, or_false] at hmem
      obtain hw | hw | hw | hw | hw | hw := hmem
      exacts [⟨.nop, hw.symm⟩, ⟨.sum, hw.symm⟩, ⟨.rowrev, hw.symm⟩, ⟨.swaprb, hw.symm⟩, ⟨.pack, hw.symm⟩,
        ⟨.unpack, hw.symm⟩]
    · have hdec : decode w = .ok (.conv (BitVec.ofNat 4 s) (BitVec.ofNat 4 d)) := by
        rw [convWordCarriesBothWidths, BitVec.toNat_ofNat, BitVec.toNat_ofNat, Nat.mod_eq_of_lt hs,
          Nat.mod_eq_of_lt hd]
        exact hw
      exact ⟨_, encode_eq_of_decode hdec⟩

/-- Settles O3: the legal words are the words of the commands, and different commands have different words. -/
theorem legalWordsAreTheListed : Obligations.LegalWordsAreTheListed := by
  refine ⟨fun w => (legal_iff_encode w).trans (exists_encode_iff w), allCommands.map encode, ?_, ?_, fun w => ?_⟩
  · rw [List.length_map, length_allCommands]
  · exact nodup_allCommands.map encode_injective
  · simp [legal_iff_encode, mem_allCommands]

/-- Settles O8: no command has a word of the four kinds, and a word of none of them is on the list of rule R66. -/
theorem illegalWordsAreTheFourKinds : Obligations.IllegalWordsAreTheFourKinds := by
  refine fun w => ⟨fun ⟨e, h⟩ => ?_, decode_error_of_illegal⟩
  by_contra hkinds
  have hw := w.isLt
  have hlisted : w ∈ ([0x0, 0x1, 0x2, 0x3, 0x5, 0x6] : List Word) ∨
      ∃ d s : Nat, d < 16 ∧ s < 16 ∧ w.toNat = d * 4096 + s * 256 + 4 := by
    by_cases hop : w.toNat % 16 = 4
    · exact .inr ⟨w.toNat / 4096, w.toNat / 256 % 16, by omega, by omega, by omega⟩
    · simp only [List.mem_cons, List.not_mem_nil, or_false, ← BitVec.toNat_inj, BitVec.reduceToNat]
      omega
  obtain ⟨i, hi⟩ := (legalWordsAreTheListed.1 w).2 hlisted
  rw [h] at hi
  cases hi

end Sys2Proof
end

section
/-! All the commands at once (40_command_execution.md rules R83, R87): each routine is its check and, behind it, its
effect; what the two can be, and what running a command leaves alone. -/

namespace Sys2Proof.Machine

/-! Check and effect. -/

/-- What a command tests before it writes anything (rule R87; 41_checksum.md rule R101, 43_convert.md rule R128). -/
def commandCheck (i : Instr) (s : State) : Except CommandError Unit :=
  match i with
  | .nop => .ok ()
  | .sum => checkSource s s.lenBytes
  | .conv sb db => checkConvert s sb.toNat db.toNat
  | .rowrev | .swaprb | .pack | .unpack => checkBuffers s (sourceBytes i s) (destinationBytes i s)

/-- What a command does behind its check. -/
def commandEffect (i : Instr) (s : State) : State :=
  match i with
  | .nop => s
  | .sum => { s with csum := sumLoop s s.src.toNat s.lenBytes s.csum }
  | .rowrev => rowrevLoop s.src.toNat s.dst.toNat s.len.toNat s.rowb.toNat s
  | .swaprb => swaprbLoop s.src.toNat s.dst.toNat s.len.toNat s
  | .conv sb db => { s with res := BitVec.ofNat 32 (convert s.opa.toNat sb.toNat db.toNat) }
  | .pack => packLoop s.src.toNat s.dst.toNat s.len.toNat s
  | .unpack => unpackLoop s.src.toNat s.dst.toNat s.len.toNat s

theorem routine_eq (i : Instr) (s : State) :
    routine i s = (commandCheck i s).map fun _ => commandEffect i s := by
  cases i with
  | nop => rfl
  | sum => exact doSum_eq s
  | rowrev => exact doRowrev_eq s
  | swaprb => exact doSwaprb_eq s
  | conv sb db => exact doConv_eq _ _ s
  | pack => exact doPack_eq s
  | unpack => exact doUnpack_eq s

theorem routine_ok_iff {i : Instr} {s t : State} :
    routine i s = .ok t ↔ commandCheck i s = .ok () ∧ t = commandEffect i s := by
  rw [routine_eq]
  cases commandCheck i s <;> simp [Except.map, eq_comm]

theorem routine_error_iff {i : Instr} {s : State} {e : CommandError} :
    routine i s = .error e ↔ commandCheck i s = .error e := by
  rw [routine_eq]
  cases commandCheck i s <;> simp [Except.map]

theorem commandCheck_clearDone (i : Instr) (s : State) : commandCheck i s.clearDone = commandCheck i s := by
  cases i <;> rfl

/-- Everything a command can do: it is dropped, its check fails and is recorded, or it has its effect (rule R83). -/
theorem exec_cases {i : Instr} {s t : State} (h : exec i s = .next t) :
    (s.err = true ∧ t = s) ∨
    (s.err = false ∧ ∃ e, commandCheck i s = .error e ∧ t = s.failed (encode i) e.code.number e.info) ∨
    (s.err = false ∧ commandCheck i s = .ok () ∧ t = (commandEffect i s.clearDone).setDone) := by
  rw [exec_eq] at h
  obtain rfl := Host.Outcome.next.inj h
  obtain hdropped | ⟨herr, e, he, hrun⟩ | ⟨herr, u, hu, hrun⟩ := runCommand_cases (encode i) (routine i) s
  · exact .inl hdropped
  · rw [routine_error_iff, commandCheck_clearDone] at he
    exact .inr (.inl ⟨herr, e, he, hrun⟩)
  · obtain ⟨hok, rfl⟩ := routine_ok_iff.1 hu
    exact .inr (.inr ⟨herr, commandCheck_clearDone i s ▸ hok, hrun⟩)

theorem exec_of_check_ok {i : Instr} {s : State} (herr : s.err = false) (hok : commandCheck i s = .ok ()) :
    exec i s = .next (commandEffect i s.clearDone).setDone := by
  rw [exec_eq, runCommand_ok herr (routine_ok_iff.2 ⟨(commandCheck_clearDone i s).trans hok, rfl⟩)]

theorem exec_of_check_error {i : Instr} {s : State} {e : CommandError} (herr : s.err = false)
    (he : commandCheck i s = .error e) : exec i s = .next (s.failed (encode i) e.code.number e.info) := by
  rw [exec_eq, runCommand_error herr (routine_error_iff.2 ((commandCheck_clearDone i s).trans he)),
    clearDone_raiseError]

/-! What the checks can answer. -/

theorem checkBuffers_ok_iff {s : State} {sn dn : Nat} :
    checkBuffers s sn dn = .ok () ↔ s.fits s.src sn ∧ s.fits s.dst dn ∧ ¬ meets s.src sn s.dst dn := by
  simp only [← State.inRange_iff_fits, ← overlap_iff_meets]
  obtain ⟨h1, h⟩ | ⟨h1, h2, h⟩ | ⟨h1, h2, h3, h⟩ | ⟨h1, h2, h3, h⟩ := checkBuffers_cases s sn dn <;> simp [*]

theorem checkBuffers_error_code {s : State} {sn dn : Nat} {e : CommandError} (h : checkBuffers s sn dn = .error e) :
    e.code = .range ∨ e = ⟨.overlap, 0⟩ := by
  obtain ⟨-, he⟩ | ⟨-, -, he⟩ | ⟨-, -, -, he⟩ | ⟨-, -, -, hok⟩ := checkBuffers_cases s sn dn
  · exact .inl (Except.error.inj (he.symm.trans h) ▸ rfl)
  · exact .inl (Except.error.inj (he.symm.trans h) ▸ rfl)
  · exact .inr (Except.error.inj (he.symm.trans h)).symm
  · rw [hok] at h
    cases h

theorem commandCheck_of_hasTwoRanges {i : Instr} (hi : hasTwoRanges i = true) (s : State) :
    commandCheck i s = checkBuffers s (sourceBytes i s) (destinationBytes i s) := by
  cases i with
  | nop | sum | conv => cases hi
  | rowrev | swaprb | pack | unpack => rfl

theorem hasRange_of_hasTwoRanges {i : Instr} (hi : hasTwoRanges i = true) : hasRange i = true := by
  cases i <;> trivial

/-- 60_exceptions.md rule R151, column "Commands that can raise it". -/
theorem commandCheck_error_cases {i : Instr} {s : State} {e : CommandError} (h : commandCheck i s = .error e) :
    (e = ⟨.param, 0⟩ ∧ ∃ sb db, i = .conv sb db) ∨ (e.code = .range ∧ hasRange i = true) ∨
    (e = ⟨.overlap, 0⟩ ∧ hasTwoRanges i = true) := by
  have htwo : hasTwoRanges i = true → (e.code = .range ∧ hasRange i = true) ∨
      (e = ⟨.overlap, 0⟩ ∧ hasTwoRanges i = true) := fun hi => by
    rw [commandCheck_of_hasTwoRanges hi] at h
    exact (checkBuffers_error_code h).imp (⟨·, hasRange_of_hasTwoRanges hi⟩) (⟨·, hi⟩)
  cases i with
  | nop => cases h
  | sum =>
    obtain ⟨-, hok⟩ | ⟨-, he⟩ := checkSource_cases s s.lenBytes
    · cases hok.symm.trans h
    · exact .inr (.inl ⟨Except.error.inj (he.symm.trans h) ▸ rfl, rfl⟩)
  | conv sb db =>
    obtain ⟨-, -, -, hok⟩ | ⟨-, he⟩ := checkConvert_cases s sb.toNat db.toNat
    · cases hok.symm.trans h
    · exact .inl ⟨(Except.error.inj (he.symm.trans h)).symm, sb, db, rfl⟩
  | rowrev | swaprb | pack | unpack => exact .inr (htwo rfl)

/-! What the effects can be. -/

theorem commandEffect_sameButMemory {i : Instr} (hi : hasTwoRanges i = true) (s : State) :
    sameButMemory s (commandEffect i s) := by
  cases i with
  | nop | sum | conv => cases hi
  | rowrev => exact rowrevLoop_sameButMemory _ _ _ _ s
  | swaprb => exact swaprbLoop_sameButMemory _ _ _ s
  | pack => exact packLoop_sameButMemory _ _ _ s
  | unpack => exact unpackLoop_sameButMemory _ _ _ s

/-- 10_state.md rule R12, column "writes": an effect is on the memory, on `CSUM` or on `RES`, each for its commands. -/
theorem commandEffect_keeps (i : Instr) (s : State) :
    commandEffect i s = { s with
      mem := (commandEffect i s).mem, csum := (commandEffect i s).csum, res := (commandEffect i s).res } ∧
    ((∀ sb db, i ≠ .conv sb db) → (commandEffect i s).res = s.res) ∧
    (i ≠ .sum → (commandEffect i s).csum = s.csum) ∧
    (hasTwoRanges i = false → (commandEffect i s).mem = s.mem) := by
  cases htwo : hasTwoRanges i with
  | true =>
    have hsame := commandEffect_sameButMemory htwo s
    rw [sameButMemory] at hsame
    rw [hsame]
    exact ⟨rfl, fun _ => rfl, fun _ => rfl, fun hfalse => Bool.noConfusion hfalse⟩
  | false =>
    cases i with
    | nop => exact ⟨rfl, fun _ => rfl, fun _ => rfl, fun _ => rfl⟩
    | sum => exact ⟨rfl, fun _ => rfl, fun hsum => absurd rfl hsum, fun _ => rfl⟩
    | conv sb db => exact ⟨rfl, fun hconv => absurd rfl (hconv sb db), fun _ => rfl, fun _ => rfl⟩
    | rowrev | swaprb | pack | unpack => cases htwo

/-- The byte a command with two ranges stores at place `k` of its destination. -/
def commandByte (i : Instr) (s : State) (k : Nat) : Byte :=
  match i with
  | .rowrev => s.rowrevByte s.src.toNat s.len.toNat s.rowb.toNat k
  | .swaprb => s.swaprbByte s.src.toNat k
  | .pack => s.packedByte s.src.toNat k
  | .unpack => s.unpackedByte s.src.toNat k
  | .nop | .sum | .conv _ _ => 0

theorem filled_commandEffect {i : Instr} (hi : hasTwoRanges i = true) {s : State}
    (hapart : apart s.src.toNat (sourceBytes i s) s.dst.toNat (destinationBytes i s)) :
    Filled s (commandEffect i s) s.dst.toNat (destinationBytes i s) (commandByte i s) := by
  cases i with
  | nop | sum | conv => cases hi
  | rowrev => exact filled_rowrevLoop hapart
  | swaprb => exact filled_swaprbLoop hapart
  | pack => exact filled_packLoop hapart
  | unpack => exact filled_unpackLoop hapart

theorem filled_of_check_ok {i : Instr} (hi : hasTwoRanges i = true) {s : State} (hok : commandCheck i s = .ok ()) :
    Filled s (commandEffect i s) s.dst.toNat (destinationBytes i s) (commandByte i s) := by
  rw [commandCheck_of_hasTwoRanges hi, checkBuffers_ok_iff] at hok
  obtain ⟨-, -, hmeets⟩ := hok
  exact filled_commandEffect hi (apart_of_not_meets hmeets)

/-! The statements. -/

/-- Settles O29: every command runs in the one frame, which always answers. -/
theorem everyCommandAnswersANextState : Obligations.EveryCommandAnswersANextState := fun i s =>
  ⟨_, exec_eq i s⟩

/-- What a command leaves alone, whether it is dropped, fails or has its effect (rule R12). -/
theorem exec_keeps {i : Instr} {s t : State} (h : exec i s = .next t) :
    t = { s with
      done := t.done, err := t.err, ecode := t.ecode, faddr := t.faddr, fcmd := t.fcmd
      mem := t.mem, csum := t.csum, res := t.res } ∧
    ((∀ sb db, i ≠ .conv sb db) → t.res = s.res) ∧ (i ≠ .sum → t.csum = s.csum) ∧
    (hasTwoRanges i = false → t.mem = s.mem) := by
  obtain ⟨-, rfl⟩ | ⟨-, e, -, rfl⟩ | ⟨-, -, rfl⟩ := exec_cases h
  · exact ⟨rfl, fun _ => rfl, fun _ => rfl, fun _ => rfl⟩
  · exact ⟨rfl, fun _ => rfl, fun _ => rfl, fun _ => rfl⟩
  · obtain ⟨hsame, hkeeps⟩ := commandEffect_keeps i s.clearDone
    exact ⟨by rw [hsame]; rfl, hkeeps⟩

/-- Settles O30: the writes of a command are the record, the memory, `CSUM` and `RES`. -/
theorem commandsKeepOtherRegisters : Obligations.CommandsKeepOtherRegisters := by
  intro i s t h
  obtain ⟨hsame, hres, hcsum, -⟩ := exec_keeps h
  rw [hsame]
  exact ⟨rfl, rfl, rfl, rfl, rfl, rfl, hres, hcsum, rfl, rfl, rfl⟩

/-- Settles O31: a command without a destination leaves the memory, and one with a destination fills it. -/
theorem commandsWriteOnlyTheirDestination : Obligations.CommandsWriteOnlyTheirDestination := by
  intro i s t h a ha
  cases htwo : hasTwoRanges i with
  | false =>
    obtain ⟨-, -, -, hmem⟩ := exec_keeps h
    exact State.byteAt_congr t s (hmem htwo) a
  | true =>
    obtain ⟨-, rfl⟩ | ⟨-, e, -, rfl⟩ | ⟨-, hok, rfl⟩ := exec_cases h
    · rfl
    · rfl
    · rw [← commandCheck_clearDone] at hok
      exact (filled_of_check_ok htwo hok).outside a (by cases i <;> exact ha)

/-- Rule R83: every word written to `CMD`, legal or not, is answered with a next state. -/
theorem execute_answers (w : Word) (s : State) : ∃ t, execute w s = .next t := by
  obtain ⟨i, -, hexec⟩ | ⟨e, -, hillegal⟩ := execute_cases w s
  · exact ⟨_, hexec.trans (exec_eq i s)⟩
  · exact ⟨_, hillegal⟩

/-- Settles O33: a command that is not dropped fails, and leaves `DONE` = 0, or completes with the record as it was. -/
theorem exactlyOneFlagAfterACommand : Obligations.ExactlyOneFlagAfterACommand := by
  intro s rest w h herr
  have hstep : step s = execute w { s with script := rest } := step_regWrite h (by decide) (by decide)
  obtain ⟨t, ht⟩ := execute_answers w { s with script := rest }
  refine ⟨t, hstep.trans ht, ?_⟩
  obtain ⟨code, info, rfl⟩ | ⟨hdone, hrecord⟩ := execute_next (s := { s with script := rest }) herr ht
  · rfl
  · rw [hdone, hrecord.err, herr, Bool.not_false]

/-! Commands without elements (40_command_execution.md rule R85, 70_reset_and_hazards.md rule R178). -/

/-- A buffer command without elements: `LEN` = 0, or `ROWREV` of rows of no bytes. -/
def noElements (i : Instr) (s : State) : Prop := s.len = 0 ∨ (i = .rowrev ∧ s.rowb = 0)

theorem noElements_sizes {i : Instr} {s : State} (hi : hasRange i = true) (h : noElements i s) :
    sourceBytes i s = 0 ∧ destinationBytes i s = 0 := by
  have hrows : noElements .rowrev s → s.rowBytes = 0 := by
    rintro (hlen | ⟨-, hrowb⟩)
    · rw [State.rowBytes, hlen]
      exact Nat.zero_mul _
    · rw [State.rowBytes, hrowb]
      exact Nat.mul_zero _
  cases i with
  | nop | conv => cases hi
  | rowrev => exact ⟨hrows h, hrows h⟩
  | sum | swaprb | pack | unpack =>
    obtain hlen | ⟨⟨⟩, -⟩ := h
    simp [sourceBytes, destinationBytes, State.lenBytes, State.rgbBytes, State.packedBytes, hlen]

theorem commandCheck_of_noElements {i : Instr} {s : State} (hi : hasRange i = true) (h : noElements i s) :
    commandCheck i s = .ok () := by
  obtain ⟨hsn, hdn⟩ := noElements_sizes hi h
  cases htwo : hasTwoRanges i with
  | true =>
    rw [commandCheck_of_hasTwoRanges htwo, checkBuffers_ok_iff, hsn, hdn]
    exact ⟨.inl rfl, .inl rfl, fun hmeets => absurd hmeets.1 (Nat.lt_irrefl 0)⟩
  | false =>
    cases i with
    | sum => exact checkSource_of_fits (.inl hsn)
    | nop | conv => cases hi
    | rowrev | swaprb | pack | unpack => cases htwo

theorem commandEffect_of_noElements {i : Instr} {s : State} (hi : hasRange i = true) (h : noElements i s) :
    commandEffect i s = s := by
  obtain hlen | ⟨rfl, hrowb⟩ := h
  · have hzero : s.len.toNat = 0 := by rw [hlen]; rfl
    cases i with
    | nop | conv => cases hi
    | sum => simp only [commandEffect, State.lenBytes, hzero]; rfl
    | rowrev | swaprb | pack | unpack => simp only [commandEffect, hzero]; rfl
  · have hzero : s.rowb.toNat = 0 := by rw [hrowb]; rfl
    simp only [commandEffect, hzero]
    exact forUpTo_keeps id _ _ s fun _ _ => rfl

/-- Settles O28: the checks pass empty ranges, and a loop over no elements does nothing. -/
theorem zeroLengthCommandsComplete : Obligations.ZeroLengthCommandsComplete := by
  intro s i herr hi h
  rw [exec_of_check_ok herr (commandCheck_of_noElements hi h), commandEffect_of_noElements (s := s.clearDone) hi h]
  rfl

/-- Settles O19: after `Reset` `LEN` is 0. -/
theorem bufferCommandsAreSafeAfterReset : Obligations.BufferCommandsAreSafeAfterReset := fun s i hi =>
  zeroLengthCommandsComplete s.resetRegisters i rfl hi (.inl rfl)

end Sys2Proof.Machine
end

section
/-! What a command does not depend on: the registers it does not read (10_state.md rule R12) and the bytes outside its
source range (40_command_execution.md rule R87). -/

namespace Sys2Proof.Machine

/-! The registers a command does not read. -/

/-- A value for each register that some command reads and some other does not. -/
structure Operands where
  order : ChannelOrder
  src : Word
  dst : Word
  len : Word
  rowb : Word
  opa : Word
  csum : Word

/-- `s` with other values in the registers that `i` does not read (rule R12, column "reads"). -/
def State.withUnread (i : Instr) (v : Operands) (s : State) : State :=
  match i with
  | .nop =>
    { s with order := v.order, src := v.src, dst := v.dst, len := v.len, rowb := v.rowb, opa := v.opa, csum := v.csum }
  | .sum => { s with order := v.order, dst := v.dst, rowb := v.rowb, opa := v.opa }
  | .rowrev => { s with order := v.order, opa := v.opa, csum := v.csum }
  | .swaprb => { s with order := v.order, rowb := v.rowb, opa := v.opa, csum := v.csum }
  | .conv _ _ =>
    { s with order := v.order, src := v.src, dst := v.dst, len := v.len, rowb := v.rowb, csum := v.csum }
  | .pack | .unpack => { s with rowb := v.rowb, opa := v.opa, csum := v.csum }

section
variable (i : Instr) (v : Operands) (s : State)

/-! The frame around a command touches no operand, and goes by `ERR`, which is none. -/

theorem withUnread_err : (s.withUnread i v).err = s.err := by
  cases i <;> rfl

theorem withUnread_clearDone : (s.withUnread i v).clearDone = s.clearDone.withUnread i v := by
  cases i <;> rfl

theorem withUnread_setDone : (s.withUnread i v).setDone = s.setDone.withUnread i v := by
  cases i <;> rfl

theorem withUnread_failed (w : Word) (code : BitVec 4) (info : Word) :
    (s.withUnread i v).failed w code info = (s.failed w code info).withUnread i v := by
  cases i <;> rfl

theorem commandCheck_withUnread : commandCheck i (s.withUnread i v) = commandCheck i s := by
  cases i <;> rfl

theorem commandEffect_withUnread :
    commandEffect i (s.withUnread i v) = (commandEffect i s).withUnread i v := by
  cases i with
  | nop | sum | conv => rfl
  | rowrev =>
    exact forUpTo_commutes (State.withUnread .rowrev v) _ _ s fun _ t =>
      forUpTo_commutes (State.withUnread .rowrev v) _ _ t fun _ _ => rfl
  | swaprb => exact forUpTo_commutes (State.withUnread .swaprb v) _ _ s fun _ _ => rfl
  | pack => exact forUpTo_commutes (State.withUnread .pack v) _ _ s fun _ _ => rfl
  | unpack => exact forUpTo_commutes (State.withUnread .unpack v) _ _ s fun _ _ => rfl

variable {i s} in
theorem exec_withUnread {t : State} (h : exec i s = .next t) :
    exec i (s.withUnread i v) = .next (t.withUnread i v) := by
  obtain ⟨herr, rfl⟩ | ⟨herr, e, he, rfl⟩ | ⟨herr, hok, rfl⟩ := exec_cases h
  · rw [exec_eq, runCommand_dropped ((withUnread_err i v t).trans herr)]
  · rw [exec_of_check_error ((withUnread_err i v s).trans herr) ((commandCheck_withUnread i v s).trans he),
      withUnread_failed]
  · rw [exec_of_check_ok ((withUnread_err i v s).trans herr) ((commandCheck_withUnread i v s).trans hok),
      withUnread_clearDone, commandEffect_withUnread, withUnread_setDone]

end

/-- Settles O34: check, effect and frame of each command commute with a change of the registers it does not read. -/
theorem commandsReadOnlyTheirRegisters : Obligations.CommandsReadOnlyTheirRegisters := by
  intro s t o r d l b p c
  have hexec : ∀ i, exec i s = .next t →
      exec i (s.withUnread i ⟨o, r, d, l, b, p, c⟩) = .next (t.withUnread i ⟨o, r, d, l, b, p, c⟩) :=
    fun i h => exec_withUnread _ h
  exact ⟨hexec .nop, hexec .sum, hexec .rowrev, hexec .swaprb, fun sb db => hexec (.conv sb db), hexec .pack,
    hexec .unpack⟩

/-! The bytes outside the source range. -/

theorem sumLoop_of_sameBytes {s t : State} {base n : Nat} (h : sameBytes s t base n) (acc : Word) :
    sumLoop t base n acc = sumLoop s base n acc := by
  have hbytes : t.bytesAt base n = s.bytesAt base n :=
    List.map_congr_left fun k hk => h k (List.mem_range.1 hk)
  apply BitVec.eq_of_toNat_eq
  rw [toNat_sumLoop, toNat_sumLoop, hbytes]

section
variable {i : Instr} {s : State} {m : Memory}

theorem commandCheck_withMemory : commandCheck i { s with mem := m } = commandCheck i s := by
  cases i <;> rfl

variable (h : sameBytes s { s with mem := m } s.src.toNat (sourceBytes i s))
include h

/-- Each byte that a command stores is made of bytes of its source range. -/
theorem commandByte_withMemory {k : Nat} (hk : k < destinationBytes i s) :
    commandByte i { s with mem := m } k = commandByte i s k := by
  cases i with
  | nop | sum | conv => rfl
  | rowrev =>
    have hk : k < s.len.toNat * s.rowb.toNat := hk
    obtain ⟨hrows, hrowb⟩ := CanonicallyOrderedAdd.mul_pos.1 (Nat.zero_lt_of_lt hk)
    have hplace : (s.len.toNat - 1 - k / s.rowb.toNat) * s.rowb.toNat + k % s.rowb.toNat < s.rowBytes :=
      row_place_lt ((Nat.sub_le _ _).trans_lt (Nat.sub_one_lt_of_lt hrows)) (Nat.mod_lt k hrowb)
    simp only [commandByte, State.rowrevByte, Nat.add_assoc]
    exact h _ hplace
  | swaprb =>
    have hplace : 3 * (k / 3) + (2 - k % 3) < s.rgbBytes := by
      have hk : k < 3 * s.len.toNat := hk
      rw [State.rgbBytes]
      omega
    simp only [commandByte, State.swaprbByte, Nat.add_assoc]
    exact h _ hplace
  | pack =>
    have hplace : 3 * (k / 2) + 2 < s.rgbBytes := by
      have hk : k < 2 * s.len.toNat := hk
      rw [State.rgbBytes]
      omega
    simp only [commandByte, State.packedByte, State.packedPixel, rgbAt_of_sameBytes h hplace]
  | unpack =>
    have hplace : 2 * (k / 3) + 1 < s.packedBytes := by
      have hk : k < 3 * s.len.toNat := hk
      rw [State.packedBytes]
      omega
    simp only [commandByte, State.unpackedByte, State.unpackedPixel, pixelAt_of_sameBytes h hplace]

/-- The effects on two memories that agree on the source range differ in memory alone, and not in the destination. -/
theorem commandEffect_withMemory (hok : commandCheck i s = .ok ()) :
    commandEffect i { s with mem := m } =
      { commandEffect i s with mem := (commandEffect i { s with mem := m }).mem } ∧
    sameBytes (commandEffect i s) (commandEffect i { s with mem := m }) s.dst.toNat (destinationBytes i s) := by
  cases htwo : hasTwoRanges i with
  | true =>
    have hsame := commandEffect_sameButMemory htwo s
    have hsame' := commandEffect_sameButMemory htwo { s with mem := m }
    have hfill := filled_of_check_ok htwo hok
    have hfill' := filled_of_check_ok htwo (commandCheck_withMemory (m := m).trans hok)
    have hdn : destinationBytes i { s with mem := m } = destinationBytes i s := by cases i <;> rfl
    refine ⟨?_, fun k hk => ?_⟩
    · rw [sameButMemory] at hsame hsame'
      rw [hsame, hsame']
    · rw [hfill.inside k hk, ← commandByte_withMemory h hk]
      exact hfill'.inside k (hdn ▸ hk)
  | false =>
    cases i with
    | nop => exact ⟨rfl, fun _ hk => absurd hk (Nat.not_lt_zero _)⟩
    | sum =>
      have hsum : sumLoop { s with mem := m } s.src.toNat s.lenBytes s.csum =
          sumLoop s s.src.toNat s.lenBytes s.csum := sumLoop_of_sameBytes h s.csum
      exact ⟨congrArg (fun c => { s with mem := m, csum := c }) hsum, fun _ hk => absurd hk (Nat.not_lt_zero _)⟩
    | conv sb db => exact ⟨rfl, fun _ hk => absurd hk (Nat.not_lt_zero _)⟩
    | rowrev | swaprb | pack | unpack => cases htwo

end

/-- Settles O35: the checks do not look at the memory, and the effects look at the source range alone. -/
theorem commandsReadOnlyTheirSourceRange : Obligations.CommandsReadOnlyTheirSourceRange := by
  intro i s t m herr hagree h
  obtain ⟨htrue, -⟩ | ⟨-, e, he, rfl⟩ | ⟨-, hok, rfl⟩ := exec_cases h
  · exact absurd htrue (by simp [herr])
  · have hfails := exec_of_check_error (s := { s with mem := m }) herr (commandCheck_withMemory.trans he)
    exact ⟨_, hfails, rfl, fun hfalse => Bool.noConfusion hfalse⟩
  · have hsource : sameBytes s { s with mem := m } s.src.toNat (sourceBytes i s) := fun k hk =>
      hagree _ (by unfold outsideRange; omega)
    have hsource' : sameBytes s.clearDone { s.clearDone with mem := m } s.src.toNat (sourceBytes i s.clearDone) := by
      cases i <;> exact hsource
    have hok' : commandCheck i s.clearDone = .ok () := (commandCheck_clearDone i s).trans hok
    obtain ⟨hsame, hbytes⟩ := commandEffect_withMemory hsource' hok'
    have hruns := exec_of_check_ok (s := { s with mem := m }) herr (commandCheck_withMemory.trans hok)
    refine ⟨_, hruns, congrArg State.setDone hsame, fun _ a ha => ?_⟩
    have hdn : destinationBytes i s.clearDone = destinationBytes i s := by cases i <;> rfl
    unfold outsideRange at ha
    obtain ⟨k, rfl⟩ := Nat.exists_eq_add_of_le (show s.dst.toNat ≤ a by omega)
    exact hbytes k (by omega)

end Sys2Proof.Machine
end

section
/-! What a step can do (40_command_execution.md rules R80 to R83): the effect of a command word, and that of every other
transaction. -/

namespace Sys2Proof.Machine

/-! A word written to `CMD`. -/

/-- Everything `Execute` can do (rule R83): the word is dropped, is illegal, names a command whose check fails, or one
that has its effect. -/
theorem execute_next_cases {w : Word} {s t : State} (h : execute w s = .next t) :
    (s.err = true ∧ t = s) ∨
    (s.err = false ∧ ∃ e, decode w = .error e ∧ t = s.failed w 1 0) ∨
    (s.err = false ∧ ∃ i e, decode w = .ok i ∧ commandCheck i s = .error e ∧
      t = s.failed w e.code.number e.info) ∨
    (s.err = false ∧ ∃ i, decode w = .ok i ∧ commandCheck i s = .ok () ∧
      t = (commandEffect i s.clearDone).setDone) := by
  obtain ⟨i, hdec, hexec⟩ | ⟨e, hdec, hillegal⟩ := execute_cases w s
  · obtain hdropped | ⟨herr, e, he, ht⟩ | ⟨herr, hok, ht⟩ := exec_cases (hexec.symm.trans h)
    · exact .inl hdropped
    · exact .inr (.inr (.inl ⟨herr, i, e, hdec, he, encode_eq_of_decode hdec ▸ ht⟩))
    · exact .inr (.inr (.inr ⟨herr, i, hdec, hok, ht⟩))
  · cases herr : s.err with
    | true =>
      rw [hillegal, runCommand_dropped herr] at h
      exact .inl ⟨rfl, (Host.Outcome.next.inj h).symm⟩
    | false =>
      rw [execute_illegal herr hdec] at h
      exact .inr (.inl ⟨rfl, e, hdec, (Host.Outcome.next.inj h).symm⟩)

theorem execute_dropped {w : Word} {s : State} (herr : s.err = true) : execute w s = .next s := by
  obtain ⟨t, ht⟩ := execute_answers w s
  obtain ⟨-, rfl⟩ | ⟨hfalse, -⟩ | ⟨hfalse, -⟩ | ⟨hfalse, -⟩ := execute_next_cases ht
  · exact ht
  all_goals simp [herr] at hfalse

/-- What a word written to `CMD` leaves alone, and the commands that change the rest (10_state.md rule R12). -/
theorem execute_keeps {w : Word} {s t : State} (h : execute w s = .next t) :
    t = { s with
      done := t.done, err := t.err, ecode := t.ecode, faddr := t.faddr, fcmd := t.fcmd
      mem := t.mem, csum := t.csum, res := t.res } ∧
    (t.res = s.res ∨ ∃ sb db, decode w = .ok (.conv sb db)) ∧
    (t.csum = s.csum ∨ decode w = .ok .sum) ∧
    (t.mem = s.mem ∨ ∃ i, decode w = .ok i ∧ hasTwoRanges i = true) := by
  obtain ⟨i, hdec, hexec⟩ | ⟨e, -, hillegal⟩ := execute_cases w s
  · obtain ⟨hsame, hres, hcsum, hmem⟩ := exec_keeps (hexec.symm.trans h)
    refine ⟨hsame, ?_, ?_, ?_⟩
    · by_cases hconv : ∃ sb db, i = .conv sb db
      · obtain ⟨sb, db, rfl⟩ := hconv
        exact .inr ⟨sb, db, hdec⟩
      · exact .inl (hres fun sb db hi => hconv ⟨sb, db, hi⟩)
    · exact (eq_or_ne i .sum).symm.imp hcsum fun hi : i = .sum => hi ▸ hdec
    · exact (Bool.eq_false_or_eq_true (hasTwoRanges i)).symm.imp hmem fun htwo => ⟨i, hdec, htwo⟩
  · obtain rfl := Host.Outcome.next.inj (hillegal.symm.trans h)
    obtain ⟨-, hrun⟩ | ⟨-, e, -, hrun⟩ | ⟨-, u, hok, -⟩ := runCommand_cases w (fun _ => .error ⟨.illegal, 0⟩) s
    · rw [hrun]
      exact ⟨rfl, .inl rfl, .inl rfl, .inl rfl⟩
    · rw [hrun]
      exact ⟨rfl, .inl rfl, .inl rfl, .inl rfl⟩
    · cases hok

/-! A write to a register other than `CMD`. -/

/-- Nothing is recorded: `ERR`, `ECODE`, `FADDR` and `FCMD` are zero. -/
structure NoRecord (t : State) : Prop where
  err : t.err = false
  ecode : t.ecode = 0
  faddr : t.faddr = 0
  fcmd : t.fcmd = 0

/-- A register write changes the record only by acknowledging it (10_state.md rule R25). -/
theorem writeReg_record (s : State) (r : RegName) (v : Word) :
    SameRecord s (s.writeReg r v) ∨ ((r = .status ∧ v.getLsbD 1 = true) ∧ NoRecord (s.writeReg r v)) := by
  cases r with
  | status =>
    rw [State.writeReg_status, getLsbD_one_iff]
    by_cases hbit : v.toNat / 2 % 2 = 1
    · simp only [hbit, if_true]
      exact .inr ⟨⟨trivial, trivial⟩, rfl, rfl, rfl, rfl⟩
    · simp only [hbit, if_false]
      exact .inl ⟨rfl, rfl, rfl, rfl⟩
  | _ => exact .inl ⟨rfl, rfl, rfl, rfl⟩

/-- Rule R25: writing `STATUS` sets no flag. -/
theorem writeReg_done {s : State} {r : RegName} {v : Word} (h : (s.writeReg r v).done = true) : s.done = true := by
  cases r with
  | status =>
    rw [State.writeReg_status] at h
    simp only at h
    split_ifs at h
    exact h
  | _ => exact h

/-- Rule R82: `CSUM` is the one result register the host can write, at its own offset. -/
theorem writeReg_csum (s : State) (r : RegName) (v : Word) : (s.writeReg r v).csum = s.csum ∨ r = .csum := by
  cases r with
  | csum => exact .inr rfl
  | status => rw [State.writeReg_status]; exact .inl rfl
  | _ => exact .inl rfl

theorem writeReg_rest (s : State) (r : RegName) (v : Word) :
    (s.writeReg r v).res = s.res ∧ (s.writeReg r v).memTop = s.memTop ∧ (s.writeReg r v).script = s.script ∧
    (s.writeReg r v).replies = s.replies := by
  cases r with
  | status => rw [State.writeReg_status]; exact ⟨rfl, rfl, rfl, rfl⟩
  | _ => exact ⟨rfl, rfl, rfl, rfl⟩

/-! The invariant of the memory under a store. -/

theorem memoryOk_of_mem_eq {s t : State} (h : s.MemoryOk) (hmem : t.mem = s.mem) (htop : t.memTop = s.memTop) :
    t.MemoryOk where
  canonical := hmem ▸ h.canonical
  valid c hc := by
    rw [State.memSize, htop]
    exact h.valid c (hmem ▸ hc)

theorem State.MemoryOk.setByte {s : State} (h : s.MemoryOk) {a : Nat} (ha : a < s.memSize) (v : Byte) :
    (s.setByte a v).MemoryOk :=
  have ⟨hcanonical, hvalid⟩ := memoryOk_setByte ⟨h.canonical, h.valid⟩ ha v
  ⟨hcanonical, hvalid⟩

/-! The transactions that present no command. -/

/-- What the host is answered: a register or a byte for a read of that kind, nothing otherwise (rule R80). -/
def answersItsRead (tr : Transaction) (s t : State) : Prop :=
  (∃ off v, tr = .regRead off ∧ t.replies = .reg v :: s.replies) ∨
  (∃ a b, tr = .bufRead a ∧ t.replies = .byte b :: s.replies) ∨
  ((∀ off, tr ≠ .regRead off) ∧ (∀ a, tr ≠ .bufRead a) ∧ t.replies = s.replies)

/-- What the transaction `tr`, which presents no command, can change in `s`, when `t` is the state after it. -/
structure NoCommandEffect (tr : Transaction) (s t : State) : Prop where
  record : SameRecord s t ∨ (tr.clearsError = true ∧ NoRecord t)
  done : t.done = true → s.done = true
  res : t.res = s.res ∨ (tr = .reset ∧ t.res = 0)
  csum : t.csum = s.csum ∨ (∃ v, tr = .regWrite 0x28 v) ∨ tr = .reset
  byteAt : ∀ a, t.byteAt a = s.byteAt a ∨ ∃ b, tr = .bufWrite a b
  memory : s.MemoryOk → t.MemoryOk
  memTop : t.memTop = s.memTop
  script : t.script = s.script
  replies : answersItsRead tr s t

theorem noCommandEffect_answer {tr : Transaction} {s : State} {r : Reply} (h : answersItsRead tr s (s.answer r)) :
    NoCommandEffect tr s (s.answer r) where
  record := .inl ⟨rfl, rfl, rfl, rfl⟩
  done := id
  res := .inl rfl
  csum := .inl rfl
  byteAt _ := .inl rfl
  memory hs := memoryOk_of_mem_eq hs rfl rfl
  memTop := rfl
  script := rfl
  replies := h

theorem noCommandEffect_regWrite {off : Nat} {v : Word} {s t : State}
    (h : (∃ r, r ≠ .cmd ∧ off = RegName.offset r ∧ t = s.writeReg r v) ∨ t = s) :
    NoCommandEffect (.regWrite off v) s t := by
  have hreplies : ∀ u : State, u.replies = s.replies → answersItsRead (.regWrite off v) s u := fun u hu =>
    .inr (.inr ⟨fun _ h => Transaction.noConfusion h, fun _ h => Transaction.noConfusion h, hu⟩)
  obtain ⟨r, -, rfl, rfl⟩ | rfl := h
  · obtain ⟨hres, htop, hscript, hrep⟩ := writeReg_rest s r v
    exact {
      record := (writeReg_record s r v).imp_right fun ⟨⟨hr, hbit⟩, hnone⟩ =>
        ⟨by simp [Transaction.clearsError, hr, hbit], hnone⟩
      done := writeReg_done
      res := .inl hres
      csum := (writeReg_csum s r v).imp_right fun hr : r = .csum => .inl ⟨v, hr ▸ rfl⟩
      byteAt := fun a => .inl (State.byteAt_congr _ s (writeReg_mem s r v) a)
      memory := fun hs => memoryOk_of_mem_eq hs (writeReg_mem s r v) htop
      memTop := htop
      script := hscript
      replies := hreplies _ hrep }
  · exact {
      record := .inl (sameRecord_refl t)
      done := id
      res := .inl rfl
      csum := .inl rfl
      byteAt := fun _ => .inl rfl
      memory := id
      memTop := rfl
      script := rfl
      replies := hreplies t rfl }

theorem noCommandEffect_bufWrite {a : Nat} {s : State} (ha : a < s.memSize) (b : Byte) :
    NoCommandEffect (.bufWrite a b) s (s.setByte a b) where
  record := .inl ⟨rfl, rfl, rfl, rfl⟩
  done := id
  res := .inl rfl
  csum := .inl rfl
  byteAt c := by
    by_cases hc : c = a
    · exact .inr ⟨b, hc ▸ rfl⟩
    · exact .inl (s.byteAt_setByte_other a c b hc)
  memory hs := hs.setByte ha b
  memTop := rfl
  script := rfl
  replies := .inr (.inr ⟨fun _ h => Transaction.noConfusion h, fun _ h => Transaction.noConfusion h, rfl⟩)

theorem noCommandEffect_reset (s : State) : NoCommandEffect .reset s s.resetRegisters where
  record := .inr ⟨rfl, rfl, rfl, rfl, rfl⟩
  done h := Bool.noConfusion h
  res := .inr ⟨rfl, rfl⟩
  csum := .inr (.inr rfl)
  byteAt _ := .inl rfl
  memory hs := memoryOk_of_mem_eq hs rfl rfl
  memTop := rfl
  script := rfl
  replies := .inr (.inr ⟨fun _ h => Transaction.noConfusion h, fun _ h => Transaction.noConfusion h, rfl⟩)

/-- Everything a transaction that answers a next state can do: it presents a command word, or it has one of the
effects above. -/
theorem transact_next_cases {tr : Transaction} {s t : State} (h : transact tr s = .next t) :
    (∃ w, tr = .command w ∧ execute w s = .next t) ∨ NoCommandEffect tr s t := by
  obtain ⟨off, rfl, -, rfl⟩ | ⟨off, v, rfl, -, hwrite⟩ | ⟨a, rfl, -, rfl⟩ | ⟨a, b, rfl, ha, rfl⟩ | ⟨rfl, rfl⟩ :=
    transact_next h
  · exact .inr (noCommandEffect_answer (.inl ⟨off, _, rfl, rfl⟩))
  · obtain ⟨rfl, hexec⟩ | hreg | ⟨-, rfl⟩ := hwrite
    · exact .inl ⟨v, rfl, hexec⟩
    · exact .inr (noCommandEffect_regWrite (.inl hreg))
    · exact .inr (noCommandEffect_regWrite (.inr rfl))
  · exact .inr (noCommandEffect_answer (.inr (.inl ⟨a, _, rfl, rfl⟩)))
  · exact .inr (noCommandEffect_bufWrite ha b)
  · exact .inr (noCommandEffect_reset s)

/-! The statements. -/

theorem step_command {s : State} {rest : List Transaction} {w : Word} (h : s.script = .regWrite 0x0C w :: rest) :
    step s = execute w { s with script := rest } :=
  step_regWrite h (by decide) (by decide)

/-- Settles O6: the row of `CMD` among the register writes, for a word that is legal. -/
theorem stepRunsTheDecodedCommand : Obligations.StepRunsTheDecodedCommand := by
  have hexecute : ∀ {w : Word} {i : Instr} (s : State), decode w = .ok i → execute w s = exec i s := fun s hdec => by
    rw [execute, hdec]
  exact ⟨fun s rest w i h hdec => (step_command h).trans (hexecute _ hdec),
    fun s nbits w i hdec => (step_command (s := s.withFetchWord nbits w) rfl).trans (hexecute _ hdec)⟩

/-- Settles O9: the frame drops every word while `ERR` = 1, legal or not. -/
theorem commandIsDroppedAfterAnError : Obligations.CommandIsDroppedAfterAnError := fun _ _ _ h herr =>
  (step_command h).trans (execute_dropped herr)

theorem step_regAccess_invalid {s : State} {rest : List Transaction} {off : Nat} {v : Word}
    (h : s.script = .regRead off :: rest ∨ s.script = .regWrite off v :: rest) (hoff : off % 4 ≠ 0 ∨ 256 ≤ off) :
    step s = .refused .undefinedRegisterAccess := by
  have hinvalid : ¬ validOffset off = true := by
    rw [validOffset_iff]
    omega
  obtain h | h := h <;> rw [step_cons h] <;> exact if_neg hinvalid

/-- Settles O13: the offsets above the map hold no register, the read-only ones are no row of the table of writes, and
all others are refused. -/
theorem oddRegisterAccesses : Obligations.OddRegisterAccesses := by
  refine ⟨fun s rest off h hal hun hwin => ?_, fun s rest off v h hal hoff => ?_,
    fun s rest off v h hoff => step_regAccess_invalid h hoff⟩
  · rw [step_regRead h hal hwin, State.readOffset_unmapped s hun]
  · rw [registerWriteDoes s rest off v h hal (by omega)]
    simp (disch := omega) only [if_neg]

/-- Settles O15: a command word touches neither the host's side nor `MEM_SIZE`, and any other transaction answers as
its kind says. -/
theorem stepTakesOneTransaction : Obligations.StepTakesOneTransaction := by
  refine ⟨fun s h => step_nil h, fun s t h => ?_⟩
  obtain ⟨tr, rest, hscript, htransact⟩ := step_next h
  obtain ⟨w, rfl, hexec⟩ | hquiet := transact_next_cases htransact
  · obtain ⟨hsame, -⟩ := execute_keeps hexec
    rw [hsame]
    exact ⟨_, hscript, rfl,
      .inr (.inr ⟨fun _ h => Transaction.noConfusion h, fun _ h => Transaction.noConfusion h, rfl⟩)⟩
  · exact ⟨tr, hquiet.script.symm ▸ hscript, hquiet.memTop, hquiet.replies⟩

theorem transact_of_valid {tr : Transaction} {s : State} (h : tr.valid s.memSize = true) :
    ∃ t, transact tr s = .next t := by
  cases tr with
  | regRead off => exact ⟨_, if_pos h⟩
  | regWrite off v =>
    have hwrite : ∃ t, writeOffset off v s = .next t := by
      obtain ⟨r, rfl⟩ | hun := RegName.offset_cases ((validOffset_iff off).1 h).1
      · by_cases hr : r = .cmd
        · exact hr ▸ execute_answers v s
        · exact ⟨_, writeOffset_offset hr v s⟩
      · exact ⟨s, writeOffset_unmapped hun v s⟩
    exact hwrite.imp fun t ht => (if_pos h).trans ht
  | bufRead a => exact ⟨_, if_pos (of_decide_eq_true h)⟩
  | bufWrite a b => exact ⟨_, if_pos (of_decide_eq_true h)⟩
  | reset => exact ⟨_, rfl⟩

theorem transact_of_invalid {tr : Transaction} {s : State} (h : tr.valid s.memSize = false) :
    ∃ r, transact tr s = .refused r := by
  cases tr with
  | regRead off => exact ⟨_, if_neg (Bool.eq_false_iff.1 h)⟩
  | regWrite off v => exact ⟨_, if_neg (Bool.eq_false_iff.1 h)⟩
  | bufRead a => exact ⟨_, if_neg (of_decide_eq_false h)⟩
  | bufWrite a b => exact ⟨_, if_neg (of_decide_eq_false h)⟩
  | reset => cases h

/-- Settles O16: a transaction in the ranges of rule R80 is answered, any other is refused. -/
theorem refusedExactlyOutsideTheRanges : Obligations.RefusedExactlyOutsideTheRanges := by
  intro s tr rest h
  rw [step_cons h]
  have hrefused : tr.valid s.memSize = false → ∃ r, transact tr { s with script := rest } = .refused r :=
    transact_of_invalid (s := { s with script := rest })
  refine ⟨⟨fun hnone => ?_, fun hinvalid => ?_⟩, hrefused⟩
  · by_contra hvalid
    exact hnone (transact_of_valid (s := { s with script := rest }) (Bool.eq_true_of_not_eq_false hvalid))
  · rintro ⟨t, ht⟩
    obtain ⟨r, hr⟩ := hrefused hinvalid
    cases hr.symm.trans ht

/-- Settles O18, register by register. -/
theorem powerUpRegisters : Obligations.PowerUpRegisters := by
  intro r
  cases r <;> rfl

theorem readReg_resetRegisters (s : State) (r : RegName) : s.resetRegisters.readReg r = State.reset.readReg r := by
  cases r <;> rfl

/-- Settles O17: `Reset` leaves the registers of power-up, and takes them from nowhere else. -/
theorem resetZeroesTheRegisters : Obligations.ResetZeroesTheRegisters := fun _ _ h =>
  ⟨_, step_cons h, fun r => (readReg_resetRegisters _ r).trans (powerUpRegisters r), rfl, rfl, rfl, rfl, rfl, rfl, rfl,
    rfl⟩

/-- Settles O55: `STATUS` is the sum of its three fields, which leave the reserved bits zero. -/
theorem hardwiredBitsReadAsZero : Obligations.HardwiredBitsReadAsZero := by
  intro s
  have hctrl : s.readReg .ctrl = 0 ∨ s.readReg .ctrl = 1 := by
    rw [State.readReg_ctrl]
    split_ifs
    · exact .inr rfl
    · exact .inl rfl
  have hcode := s.ecode.isLt
  refine ⟨rfl, hctrl, ?_, ?_⟩ <;> rw [State.readReg_status, BitVec.toNat_ofNat] <;> split_ifs <;> omega

end Sys2Proof.Machine
end

section
/-! What every step keeps: the invariants of the registers (10_state.md rule R34), of the error record (60_exceptions.md
rule R151) and of the memory (20_memory.md rules R41, R46). -/

namespace Sys2Proof.Machine

/-! A step, by the transaction it takes. The invariants look at no field of the host's side. -/

/-- Every step executes a word written to `CMD` or has the effect of another transaction, on the state without the
transaction it takes. -/
theorem step_next_cases {s t : State} (h : step s = .next t) :
    ∃ tr rest, s.script = tr :: rest ∧
      ((∃ w, tr = .command w ∧ execute w { s with script := rest } = .next t) ∨
        NoCommandEffect tr { s with script := rest } t) := by
  obtain ⟨tr, rest, hscript, htransact⟩ := step_next h
  exact ⟨tr, rest, hscript, transact_next_cases htransact⟩

/-- A predicate that does not look at the script, and is kept by every command word and every other transaction, is kept
by every step. -/
theorem step_preserves {P : State → Prop} (hscript : ∀ s rest, P s → P { s with script := rest })
    (hexecute : ∀ {w s t}, P s → execute w s = .next t → P t)
    (hother : ∀ {tr s t}, P s → NoCommandEffect tr s t → P t) {s t : State} (hs : P s)
    (h : step s = .next t) : P t := by
  obtain ⟨tr, rest, -, ⟨w, -, hexec⟩ | heffect⟩ := step_next_cases h
  · exact hexecute (hscript s rest hs) hexec
  · exact hother (hscript s rest hs) heffect

theorem commandEffect_sameRecord {i : Instr} {s : State} (hok : commandCheck i s = .ok ()) :
    SameRecord s (commandEffect i s) :=
  routine_sameRecord (routine_ok_iff.2 ⟨hok, rfl⟩)

theorem sameRecord_of_completes {i : Instr} {s : State} (hok : commandCheck i s = .ok ()) :
    SameRecord s (commandEffect i s.clearDone).setDone :=
  have ⟨hE, hcode, haddr, hcmd⟩ := commandEffect_sameRecord ((commandCheck_clearDone i s).trans hok)
  ⟨hE, hcode, haddr, hcmd⟩

/-! The registers. -/

/-- Rule R28: the word of a failing command is not 0, which is `NOP`, and `NOP` never fails. -/
theorem word_ne_zero_of_check_error {w : Word} {i : Instr} {s : State} {e : CommandError} (hdec : decode w = .ok i)
    (he : commandCheck i s = .error e) : w ≠ 0 := by
  rintro rfl
  obtain rfl := Except.ok.inj (decode_nop.symm.trans hdec)
  cases he

theorem word_ne_zero_of_illegal {w : Word} {e : Illegal} (hdec : decode w = .error e) : w ≠ 0 := by
  rintro rfl
  cases decode_nop.symm.trans hdec

theorem registersOk_failed {s : State} (hres : s.res.toNat < 256) {w : Word} (hw : w ≠ 0) (e : CommandError)
    (hinfo : e.info ≠ 0 → e.code = .range) : (s.failed w e.code.number e.info).RegistersOk where
  noError hfalse := Bool.noConfusion hfalse
  error _ := ⟨rfl, by cases e.code <;> simp [State.failed, ErrorCode.number]⟩
  failedWord _ := hw
  result := hres
  failedBase haddr := ⟨rfl, congrArg ErrorCode.number (hinfo haddr)⟩

theorem registersOk_of_sameRecord {s t : State} (hs : s.RegistersOk) (hrecord : SameRecord s t)
    (hdone : s.err = true → t.done = true → s.done = true) (hres : t.res.toNat < 256) : t.RegistersOk where
  noError h := by
    rw [hrecord.ecode, hrecord.faddr, hrecord.fcmd]
    exact hs.noError (hrecord.err ▸ h)
  error h := by
    rw [hrecord.err] at h
    obtain ⟨hnotdone, hcode⟩ := hs.error h
    rw [hrecord.ecode]
    exact ⟨Bool.eq_false_iff.2 fun ht => by simp [hdone h ht] at hnotdone, hcode⟩
  failedWord h := hrecord.fcmd ▸ hs.failedWord (hrecord.err ▸ h)
  result := hres
  failedBase h := by
    rw [hrecord.err, hrecord.ecode]
    exact hs.failedBase (hrecord.faddr ▸ h)

theorem registersOk_of_noRecord {t : State} (hnone : NoRecord t) (hres : t.res.toNat < 256) : t.RegistersOk where
  noError _ := ⟨hnone.ecode, hnone.faddr, hnone.fcmd⟩
  error h := absurd h (by simp [hnone.err])
  failedWord h := absurd h (by simp [hnone.err])
  result := hres
  failedBase h := absurd hnone.faddr h

/-- Rule R34 (f): `RES` holds a value of at most 8 bits, since `CONV` writes one of its destination width. -/
theorem commandEffect_res_lt {i : Instr} {s : State} (hok : commandCheck i s = .ok ()) (hs : s.res.toNat < 256) :
    (commandEffect i s).res.toNat < 256 := by
  by_cases hconv : ∃ sb db, i = .conv sb db
  · obtain ⟨sb, db, rfl⟩ := hconv
    obtain ⟨-, hdb, hopa, -⟩ | ⟨-, he⟩ := checkConvert_cases s sb.toNat db.toNat
    · have hvalue : convert s.opa.toNat sb.toNat db.toNat ≤ 2 ^ 8 - 1 :=
        (convert_le hopa db.toNat).trans
          (Nat.sub_le_sub_right (Nat.pow_le_pow_right Nat.two_pos ((widthOk_iff _).1 hdb).2) 1)
      simp only [commandEffect, BitVec.toNat_ofNat]
      omega
    · cases he.symm.trans hok
  · obtain ⟨-, hres, -⟩ := commandEffect_keeps i s
    rw [hres fun sb db hi => hconv ⟨sb, db, hi⟩]
    exact hs

theorem execute_registersOk {w : Word} {s t : State} (hs : s.RegistersOk) (h : execute w s = .next t) :
    t.RegistersOk := by
  obtain ⟨-, rfl⟩ | ⟨-, e, hdec, rfl⟩ | ⟨-, i, e, hdec, he, rfl⟩ | ⟨herr, i, hdec, hok, rfl⟩ := execute_next_cases h
  · exact hs
  · exact registersOk_failed hs.result (word_ne_zero_of_illegal hdec) ⟨.illegal, 0⟩ (absurd rfl)
  · refine registersOk_failed hs.result (word_ne_zero_of_check_error hdec he) e fun hinfo => ?_
    obtain ⟨rfl, -⟩ | ⟨hrange, -⟩ | ⟨rfl, -⟩ := commandCheck_error_cases he
    · exact absurd rfl hinfo
    · exact hrange
    · exact absurd rfl hinfo
  · exact registersOk_of_sameRecord hs (sameRecord_of_completes hok) (fun htrue => by simp [herr] at htrue)
      (commandEffect_res_lt ((commandCheck_clearDone i s).trans hok) hs.result)

/-- Settles O52: a failing command records a code, a word other than 0 and an address only for a range, a completed one
leaves the record; the other transactions keep or clear it. -/
theorem stepKeepsRegistersCoherent : Obligations.StepKeepsRegistersCoherent := by
  intro s t hs h
  refine step_preserves (P := State.RegistersOk) ?_ execute_registersOk ?_ hs h
  · exact fun s rest hs => registersOk_of_sameRecord hs ⟨rfl, rfl, rfl, rfl⟩ (fun _ => id) hs.result
  · intro tr s t hs heffect
    have hres : t.res.toNat < 256 := by
      obtain hsame | ⟨-, hzero⟩ := heffect.res
      · exact hsame ▸ hs.result
      · rw [hzero]
        decide
    obtain hsame | ⟨-, hnone⟩ := heffect.record
    · exact registersOk_of_sameRecord hs hsame (fun _ => heffect.done) hres
    · exact registersOk_of_noRecord hnone hres

/-! The error record. -/

theorem recordOk_of_sameRecord {s t : State} (hs : s.RecordOk) (hrecord : SameRecord s t) : t.RecordOk := by
  obtain ⟨hillegal, hparam, hrange, hoverlap⟩ := hs
  constructor <;> rwa [hrecord.ecode, hrecord.fcmd]

theorem recordOk_of_noRecord {t : State} (hnone : NoRecord t) : t.RecordOk := by
  constructor <;> rw [hnone.ecode] <;> intro h <;> exact absurd h (by decide)

/-- Rule R151, column "Commands that can raise it": the words that an error code can be recorded with. -/
def canRaise (code : ErrorCode) (w : Word) : Prop :=
  match code with
  | .illegal => ∃ e, decode w = .error e
  | .param => ∃ sb db, decode w = .ok (.conv sb db)
  | .range => ∃ i, decode w = .ok i ∧ hasRange i = true
  | .overlap => ∃ i, decode w = .ok i ∧ hasTwoRanges i = true

theorem number_injective : Function.Injective ErrorCode.number := by
  intro c d
  cases c <;> cases d <;> decide

theorem recordOk_failed (s : State) {w info : Word} {code : ErrorCode} (h : canRaise code w) :
    (s.failed w code.number info).RecordOk where
  illegal hcode := by obtain rfl := @number_injective code .illegal hcode; exact h
  param hcode := by obtain rfl := @number_injective code .param hcode; exact h
  range hcode := by obtain rfl := @number_injective code .range hcode; exact h
  overlap hcode := by obtain rfl := @number_injective code .overlap hcode; exact h

theorem canRaise_of_check_error {w : Word} {i : Instr} {s : State} {e : CommandError} (hdec : decode w = .ok i)
    (he : commandCheck i s = .error e) : canRaise e.code w := by
  obtain ⟨rfl, sb, db, rfl⟩ | ⟨hrange, hi⟩ | ⟨rfl, hi⟩ := commandCheck_error_cases he
  · exact ⟨sb, db, hdec⟩
  · rw [hrange]
    exact ⟨i, hdec, hi⟩
  · exact ⟨i, hdec, hi⟩

theorem execute_recordOk {w : Word} {s t : State} (hs : s.RecordOk) (h : execute w s = .next t) : t.RecordOk := by
  obtain ⟨-, rfl⟩ | ⟨-, e, hdec, rfl⟩ | ⟨-, i, e, hdec, he, rfl⟩ | ⟨-, i, -, hok, rfl⟩ := execute_next_cases h
  · exact hs
  · exact recordOk_failed s (code := .illegal) ⟨e, hdec⟩
  · exact recordOk_failed s (canRaise_of_check_error hdec he)
  · exact recordOk_of_sameRecord hs (sameRecord_of_completes hok)

/-- Settles O53: a command word that fails records itself under a code it can raise, and no other transaction makes a
record. -/
theorem stepKeepsErrorRecordCoherent : Obligations.StepKeepsErrorRecordCoherent := by
  intro s t hs h
  refine step_preserves (P := State.RecordOk) ?_ execute_recordOk ?_ hs h
  · exact fun s rest hs => recordOk_of_sameRecord hs ⟨rfl, rfl, rfl, rfl⟩
  · intro tr s t hs heffect
    obtain hsame | ⟨-, hnone⟩ := heffect.record
    · exact recordOk_of_sameRecord hs hsame
    · exact recordOk_of_noRecord hnone

/-! The memory. -/

/-- The invariant of a memory of `M` bytes, with the size that its loops keep. -/
def State.memoryOkOfSize (M : Nat) (s : State) : Prop := s.MemoryOk ∧ s.memSize = M

theorem memoryOkOfSize_setByte {M : Nat} {s : State} (h : s.memoryOkOfSize M) {a : Nat} (ha : a < M) (v : Byte) :
    (s.setByte a v).memoryOkOfSize M :=
  ⟨h.1.setByte (h.2.symm ▸ ha) v, h.2⟩

theorem memoryOkOfSize_setPixel {M : Nat} {s : State} (h : s.memoryOkOfSize M) {a : Nat} (ha : a + 1 < M) (p : Pixel) :
    (s.setPixel a p).memoryOkOfSize M :=
  memoryOkOfSize_setByte (memoryOkOfSize_setByte h (by omega) _) ha _

theorem memoryOkOfSize_setRgb {M : Nat} {s : State} (h : s.memoryOkOfSize M) {a : Nat} (ha : a + 2 < M) (p : Rgb24) :
    (s.setRgb a p).memoryOkOfSize M :=
  memoryOkOfSize_setByte (memoryOkOfSize_setByte (memoryOkOfSize_setByte h (by omega) _) (by omega) _) ha _

theorem memoryOkOfSize_forUpTo {M n : Nat} {body : Nat → State → State} {s : State} (h : s.memoryOkOfSize M)
    (hbody : ∀ i t, i < n → t.memoryOkOfSize M → (body i t).memoryOkOfSize M) :
    (forUpTo n body s).memoryOkOfSize M :=
  forUpTo_induct (fun _ t => t.memoryOkOfSize M) n body s h hbody

/-- Every store of a loop is at a place of the destination range. -/
theorem commandEffect_memoryOk {i : Instr} (hi : hasTwoRanges i = true) {s : State} (hs : s.MemoryOk)
    (hfits : s.fits s.dst (destinationBytes i s)) : (commandEffect i s).MemoryOk := by
  have hplace : ∀ k, k < destinationBytes i s → s.dst.toNat + k < s.memSize := by
    unfold State.fits at hfits
    omega
  suffices hloop : (commandEffect i s).memoryOkOfSize s.memSize from hloop.1
  have hstart : s.memoryOkOfSize s.memSize := ⟨hs, rfl⟩
  cases i with
  | nop | sum | conv => cases hi
  | rowrev =>
    refine memoryOkOfSize_forUpTo hstart fun i t hi ht => memoryOkOfSize_forUpTo ht fun j u hj hu => ?_
    exact memoryOkOfSize_setByte hu (by rw [Nat.add_assoc]; exact hplace _ (row_place_lt hi hj)) _
  | swaprb | unpack =>
    refine memoryOkOfSize_forUpTo hstart fun k t hk ht => memoryOkOfSize_setRgb ht ?_ _
    exact hplace (3 * k + 2) (show 3 * k + 2 < 3 * s.len.toNat by omega)
  | pack =>
    refine memoryOkOfSize_forUpTo hstart fun k t hk ht => memoryOkOfSize_setPixel ht ?_ _
    exact hplace (2 * k + 1) (show 2 * k + 1 < 2 * s.len.toNat by omega)

theorem execute_memoryOk {w : Word} {s t : State} (hs : s.MemoryOk) (h : execute w s = .next t) : t.MemoryOk := by
  obtain ⟨-, rfl⟩ | ⟨-, e, -, rfl⟩ | ⟨-, i, e, -, -, rfl⟩ | ⟨-, i, -, hok, rfl⟩ := execute_next_cases h
  · exact hs
  · exact memoryOk_of_mem_eq hs rfl rfl
  · exact memoryOk_of_mem_eq hs rfl rfl
  · have hs' : s.clearDone.MemoryOk := memoryOk_of_mem_eq hs rfl rfl
    rw [← commandCheck_clearDone] at hok
    suffices heffect : (commandEffect i s.clearDone).MemoryOk from memoryOk_of_mem_eq heffect rfl rfl
    cases htwo : hasTwoRanges i with
    | true =>
      rw [commandCheck_of_hasTwoRanges htwo, checkBuffers_ok_iff] at hok
      obtain ⟨-, hfits, -⟩ := hok
      exact commandEffect_memoryOk htwo hs' hfits
    | false =>
      obtain ⟨hsame, -, -, hmem⟩ := commandEffect_keeps i s.clearDone
      exact memoryOk_of_mem_eq hs' (hmem htwo) (by rw [hsame])

/-- Settles O54: a command that has passed its checks stores at valid addresses, and so does the host. -/
theorem stepKeepsMemoryValid : Obligations.StepKeepsMemoryValid := by
  intro s t hs h
  refine step_preserves (P := State.MemoryOk) ?_ execute_memoryOk ?_ hs h
  · exact fun s rest hs => memoryOk_of_mem_eq hs rfl rfl
  · exact fun hs heffect => heffect.memory hs

/-- Settles O51: after reset nothing is recorded, `RES` is 0 and nothing has been written. -/
theorem invariantsHoldAtReset : Obligations.InvariantsHoldAtReset :=
  have hnone : NoRecord State.reset := ⟨rfl, rfl, rfl, rfl⟩
  ⟨registersOk_of_noRecord hnone (by decide), recordOk_of_noRecord hnone, ⟨Memory.wf_reset, nofun⟩⟩

/-- Settles O50: the tests are the statements' predicates, and `MEM_SIZE` is at most 2^32. -/
theorem rangeChecksNeverWrap : Obligations.RangeChecksNeverWrap := by
  refine ⟨fun s base n => ⟨s.inRange_iff base n, fun hpos hpast => ?_⟩, overlap_iff_meets⟩
  obtain ⟨-, hsize⟩ := s.memSize_bounds
  rw [Bool.eq_false_iff, ne_eq, s.inRange_iff]
  omega

/-! The record through steps (60_exceptions.md rule R159). -/

theorem execute_sticky {w : Word} {s t : State} (herr : s.err = true) (h : execute w s = .next t) : t = s :=
  (Host.Outcome.next.inj ((execute_dropped herr).symm.trans h)).symm

/-- Settles O57: while `ERR` = 1 commands are dropped, and no other transaction than the two that clear the record
touches it. -/
theorem errorIsStickyThroughAStep : Obligations.ErrorIsStickyThroughAStep := by
  intro s t tr rest hscript hclear h herr
  rw [step_cons hscript] at h
  have hrecord : SameRecord { s with script := rest } t := by
    obtain ⟨w, -, hexec⟩ | heffect := transact_next_cases h
    · obtain rfl := execute_sticky (s := { s with script := rest }) herr hexec
      exact sameRecord_refl _
    · exact heffect.record.resolve_right fun hcleared => by simp [hcleared.1] at hclear
  exact ⟨hrecord.err.trans herr, hrecord.ecode, hrecord.faddr, hrecord.fcmd⟩

theorem runsTo_zero {s t : State} : runsTo 0 s t ↔ s = t :=
  ⟨fun h => Host.Outcome.next.inj h, fun h => congrArg Host.Outcome.next h⟩

theorem run_succ_eq_next {M : Host.Core} {k : Nat} {s t : M.State} :
    M.run (k + 1) s = .next t ↔ ∃ u, M.step s = .next u ∧ M.run k u = .next t := by
  rw [Host.Core.run]
  cases M.step s <;> simp

theorem runsTo_succ {k : Nat} {s t : State} : runsTo (k + 1) s t ↔ ∃ u, step s = .next u ∧ runsTo k u t :=
  run_succ_eq_next (M := core)

/-- The transactions of a run after its first step are those of the script but the first. -/
theorem script_take_of_step {k : Nat} {s t : State} (h : step s = .next t) :
    ∃ tr, s.script = tr :: t.script ∧ s.script.take (k + 1) = tr :: t.script.take k := by
  obtain ⟨tr, hscript, -⟩ := stepTakesOneTransaction.2 s t h
  exact ⟨tr, hscript, by rw [hscript, List.take_succ_cons]⟩

theorem err_of_run {k : Nat} {s t : State} (hrun : runsTo k s t)
    (hclear : ∀ tr ∈ s.script.take k, tr.clearsError = false) (herr : s.err = true) : t.err = true := by
  induction k generalizing s with
  | zero => exact runsTo_zero.1 hrun ▸ herr
  | succ k ih =>
    obtain ⟨u, hstep, hrun⟩ := runsTo_succ.1 hrun
    obtain ⟨tr, hscript, htake⟩ := script_take_of_step (k := k) hstep
    rw [htake, List.forall_mem_cons] at hclear
    obtain ⟨hfirst, hlater⟩ := hclear
    exact ih hrun hlater (errorIsStickyThroughAStep s u tr _ hscript hfirst hstep herr).1

/-- Settles O58: an error on the way would have stayed to the end. -/
theorem safeRunHidesNoError : Obligations.SafeRunHidesNoError := by
  rintro k s t ⟨hrun, hsafe⟩ hclear j u hj hu
  induction j generalizing k s with
  | zero =>
    obtain rfl := runsTo_zero.1 hu
    exact Bool.eq_false_iff.2 fun herr => by simp [err_of_run hrun hclear herr] at hsafe
  | succ j ih =>
    obtain ⟨k, rfl⟩ := Nat.exists_eq_add_of_le' (Nat.one_le_of_lt hj)
    obtain ⟨v, hstep, hrun⟩ := runsTo_succ.1 hrun
    obtain ⟨v', hstep', hu⟩ := runsTo_succ.1 hu
    obtain rfl := Host.Outcome.next.inj (hstep.symm.trans hstep')
    obtain ⟨tr, -, htake⟩ := script_take_of_step (k := k) hstep
    rw [htake, List.forall_mem_cons] at hclear
    exact ih k v hrun hclear.2 (Nat.le_of_succ_le_succ hj) hu

/-! What changes the results and the memory. -/

/-- Settles O59: of the command words `SUM` writes `CSUM` and `CONV` writes `RES`, and of the other transactions only the
named ones do. -/
theorem resultRegistersChangeOnlyByTheirCommands : Obligations.ResultRegistersChangeOnlyByTheirCommands := by
  intro s t tr rest hscript h
  rw [step_cons hscript] at h
  obtain ⟨w, rfl, hexec⟩ | heffect := transact_next_cases h
  · obtain ⟨-, hres, hcsum, -⟩ := execute_keeps hexec
    refine ⟨fun hne => .inl ?_, fun hne => .inl ?_⟩
    · rw [← encode_eq_of_decode (hcsum.resolve_left hne)]
      rfl
    · obtain ⟨sb, db, hdec⟩ := hres.resolve_left hne
      exact ⟨w, sb, db, rfl, hdec⟩
  · exact ⟨fun hne => .inr (heffect.csum.resolve_left hne), fun hne => .inr (heffect.res.resolve_left hne).1⟩

/-- Settles O60: of the command words the four with two ranges write memory, and of the other transactions the host's
store does, at its own address. -/
theorem memoryChangesOnlyByItsWriters : Obligations.MemoryChangesOnlyByItsWriters := by
  intro s t tr rest a hscript h hne
  rw [step_cons hscript] at h
  obtain ⟨w, rfl, hexec⟩ | heffect := transact_next_cases h
  · obtain ⟨-, -, -, hmem⟩ := execute_keeps hexec
    obtain ⟨i, hdec, htwo⟩ := hmem.resolve_left fun hsame => hne (State.byteAt_congr t s hsame a)
    exact .inr ⟨w, i, rfl, hdec, htwo⟩
  · exact .inl ((heffect.byteAt a).resolve_left hne)

end Sys2Proof.Machine
end

section
/-! Conversion and pixels (43_convert.md rules R126, R130; 44_pack_unpack.md rule R142): the properties of `convert`, the
exact losses there and back, and what they mean for a packed pixel. -/

namespace Sys2Proof.Machine

/-! `convert`. -/

/-- Rule R126 (d): a width converts to itself without a change. -/
theorem convert_self (c : Nat) {s : Nat} (hs : 1 ≤ s) : convert c s s = c :=
  Nat.mul_div_cancel c (Nat.sub_pos_of_lt (Nat.one_lt_two_pow (Nat.one_le_iff_ne_zero.1 hs)))

theorem convert_zero (s d : Nat) : convert 0 s d = 0 := by
  rw [convert, Nat.zero_mul, Nat.zero_div]

theorem convert_max {s : Nat} (hs : 1 ≤ s) (d : Nat) : convert (2 ^ s - 1) s d = 2 ^ d - 1 :=
  Nat.mul_div_cancel_left _ (Nat.sub_pos_of_lt (Nat.one_lt_two_pow (Nat.one_le_iff_ne_zero.1 hs)))

theorem convert_mono {c c' : Nat} (h : c' ≤ c) (s d : Nat) : convert c' s d ≤ convert c s d :=
  Nat.div_le_div_right (Nat.mul_le_mul_right _ h)

/-- Settles O43: `convert` is one product and one division, which are monotone and exact at the ends. -/
theorem convertKeepsItsProperties : Obligations.ConvertKeepsItsProperties := fun s d c _ hs _ hc hle =>
  ⟨convert_zero s d, convert_max hs d, convert_le hc d, convert_mono hle s d, convert_self c hs⟩

/-- Settles O44: the quotients `c * 31 / 255` and `c * 63 / 255` reach 31 and 63 only when nothing is cut off. -/
theorem narrowingMaximumOnlyFromMaximum : Obligations.NarrowingMaximumOnlyFromMaximum := by
  intro c hc
  have hfive : convert c 8 5 = c * 31 / 255 := rfl
  have hsix : convert c 8 6 = c * 63 / 255 := rfl
  omega

/-- From 8 bits to `m` bits and back (rule R130). -/
def thereAndBack (m c : Nat) : Nat := convert (convert c 8 m) m 8

/-- Settles O45 by running `convert` on the 256 bytes and on the 32 and 64 field values. -/
theorem roundTripLosses : Obligations.RoundTripLosses := by
  refine ⟨fun c hc => ?_, by decide, by decide, by decide⟩
  have hbyte : ∀ b : Byte,
      thereAndBack 5 b.toNat ≤ b.toNat ∧ b.toNat - thereAndBack 5 b.toNat ≤ 9 ∧
      (b.toNat - thereAndBack 5 b.toNat = 9 ↔ b.toNat ∈ [41, 74, 115, 148, 189, 222]) ∧
      (thereAndBack 5 b.toNat = b.toNat ↔ b.toNat ∈ [0, 255]) ∧
      thereAndBack 6 b.toNat ≤ b.toNat ∧ b.toNat - thereAndBack 6 b.toNat ≤ 4 ∧
      (thereAndBack 6 b.toNat = b.toNat ↔ b.toNat ∈ [0, 85, 170, 255]) := by decide
  have hc' : (BitVec.ofNat 8 c).toNat = c := Nat.mod_eq_of_lt (Nat.lt_succ_of_le hc)
  exact hc' ▸ hbyte (BitVec.ofNat 8 c)

/-! The fields of a packed pixel and the channels of an unpacked one, each by itself. -/

theorem fields_pack565 (c : Channels) :
    redField (pack565 c) = convert c.r8.toNat 8 5 ∧ greenField (pack565 c) = convert c.g8.toNat 8 6 ∧
    blueField (pack565 c) = convert c.b8.toNat 8 5 := by
  have hg := convert_le (Nat.le_sub_one_of_lt c.g8.isLt) 6
  have hb := convert_le (Nat.le_sub_one_of_lt c.b8.isLt) 5
  rw [redField_eq, greenField_eq, blueField_eq, toNat_pack565]
  omega

theorem channels_unpack565 (p : Pixel) :
    (unpack565 p).r8.toNat = convert (redField p) 5 8 ∧ (unpack565 p).g8.toNat = convert (greenField p) 6 8 ∧
    (unpack565 p).b8.toNat = convert (blueField p) 5 8 := by
  rw [redField_eq, greenField_eq, blueField_eq]
  exact ⟨toNat_unpack565_r8 p, toNat_unpack565_g8 p, toNat_unpack565_b8 p⟩

theorem pixel_eq_iff_fields (p q : Pixel) :
    p = q ↔ redField p = redField q ∧ greenField p = greenField q ∧ blueField p = blueField q := by
  rw [← BitVec.toNat_inj]
  simp only [redField_eq, greenField_eq, blueField_eq]
  omega

/-- Settles O47: each channel goes there and back by itself. -/
theorem packThenUnpackLoss : Obligations.PackThenUnpackLoss := by
  intro c
  obtain ⟨hr, hg, hb⟩ := channels_unpack565 (pack565 c)
  obtain ⟨hr', hg', hb'⟩ := fields_pack565 c
  have hloss : ∀ b : Byte,
      (thereAndBack 5 b.toNat ≤ b.toNat ∧ b.toNat ≤ thereAndBack 5 b.toNat + 9) ∧
      (thereAndBack 6 b.toNat ≤ b.toNat ∧ b.toNat ≤ thereAndBack 6 b.toNat + 4) := fun b => by
    obtain ⟨h5, h5', -, -, h6, h6', -⟩ := roundTripLosses.1 b.toNat (Nat.le_of_lt_succ b.isLt)
    exact ⟨⟨h5, Nat.sub_le_iff_le_add'.1 h5'⟩, ⟨h6, Nat.sub_le_iff_le_add'.1 h6'⟩⟩
  rw [hr, hg, hb, hr', hg', hb']
  obtain ⟨⟨hrle, hrge⟩, -⟩ := hloss c.r8
  obtain ⟨-, hgle, hgge⟩ := hloss c.g8
  obtain ⟨⟨hble, hbge⟩, -⟩ := hloss c.b8
  exact ⟨hrle, hrge, hgle, hgge, hble, hbge⟩

/-- A field that falls by one outside a set with 0 stays as it is exactly in the set. -/
theorem ite_sub_one_eq_iff {q : Nat} {survivors : List Nat} (h : 0 ∈ survivors) :
    (if q ∈ survivors then q else q - 1) = q ↔ q ∈ survivors := by
  split_ifs with hq
  · exact iff_of_true rfl hq
  · have hpos : q ≠ 0 := fun hzero => hq (hzero ▸ h)
    exact iff_of_false (by omega) hq

/-- Settles O46: each field goes to 8 bits and back by itself, and a pixel is its three fields. -/
theorem unpackThenPackLoss : Obligations.UnpackThenPackLoss := by
  intro p
  obtain ⟨-, -, hfive, hsix⟩ := roundTripLosses
  obtain ⟨hr, hg, hb⟩ := fields_pack565 (unpack565 p)
  obtain ⟨hr', hg', hb'⟩ := channels_unpack565 p
  rw [hr', hfive _ (Nat.le_of_lt_succ (BitVec.isLt _))] at hr
  rw [hg', hsix _ (Nat.le_of_lt_succ (BitVec.isLt _))] at hg
  rw [hb', hfive _ (Nat.le_of_lt_succ (BitVec.isLt _))] at hb
  refine ⟨?_, hr, hg, hb⟩
  rw [pixel_eq_iff_fields, hr, hg, hb, ite_sub_one_eq_iff (by simp), ite_sub_one_eq_iff (by simp),
    ite_sub_one_eq_iff (by simp)]

/-- Settles O49: the two bytes of a pixel are the digits of its number, and reading puts them together. -/
theorem pixelsAreBigEndian : Obligations.PixelsAreBigEndian := by
  intro s a p
  have hp := p.isLt
  have hhigh : (s.setPixel a p).byteAt a = p.extractLsb' 8 8 := by simp [State.byteAt_setPixel]
  have hlow : (s.setPixel a p).byteAt (a + 1) = p.extractLsb' 0 8 := by simp [State.byteAt_setPixel]
  refine ⟨?_, ?_, ?_, fun b hb hb' => ?_⟩
  · rw [hhigh, BitVec.extractLsb'_toNat, Nat.shiftRight_eq_div_pow]
    omega
  · rw [hlow, BitVec.extractLsb'_toNat, Nat.shiftRight_zero]
  · apply BitVec.eq_of_toNat_eq
    rw [State.toNat_pixelAt, hhigh, hlow, toNat_pixel_bytes]
  · rw [State.byteAt_setPixel, if_neg hb', if_neg hb]

end Sys2Proof.Machine
end

section
/-! Rows and pixels of byte sequences (42_buffer.md rules R110, R115, R117): row reversal turns the last row into the
first, and the pixel functions go through a sequence element by element. -/

namespace Sys2Proof.Machine

/-! Row reversal, row by row. -/

@[simp] theorem length_rowrev (bytes : List Byte) (rows rowb : Nat) : (rowrev bytes rows rowb).length = rows * rowb := by
  simp [rowrev]

theorem rowrev_zero (bytes : List Byte) (rowb : Nat) : rowrev bytes 0 rowb = [] := by
  simp [rowrev]

/-- A place of a buffer is row `i`, byte `j` of it. -/
theorem place_div_mod (i : Nat) {rowb j : Nat} (hj : j < rowb) :
    (i * rowb + j) / rowb = i ∧ (i * rowb + j) % rowb = j := by
  rw [Nat.mul_add_mod_of_lt hj, Nat.mul_comm, Nat.mul_add_div (Nat.zero_lt_of_lt hj), Nat.div_eq_of_lt hj]
  exact ⟨rfl, rfl⟩

/-- Byte `j` of row `i` of the reversed rows is byte `j` of the row that faces it (rule R110). -/
theorem getD_rowrev (bytes : List Byte) {rows rowb i j : Nat} (hi : i < rows) (hj : j < rowb) :
    (rowrev bytes rows rowb).getD (i * rowb + j) 0 = bytes.getD ((rows - 1 - i) * rowb + j) 0 := by
  obtain ⟨hrow, hplace⟩ := place_div_mod i hj
  simp [rowrev, List.getD_eq_getElem?_getD, List.getElem?_range (row_place_lt hi hj), hrow, hplace]

/-- Two sequences of `rows` rows are the same when they have the same bytes in each row. -/
theorem eq_of_rows {xs ys : List Byte} {rows rowb : Nat} (hx : xs.length = rows * rowb) (hy : ys.length = rows * rowb)
    (h : ∀ i j, i < rows → j < rowb → xs.getD (i * rowb + j) 0 = ys.getD (i * rowb + j) 0) : xs = ys := by
  refine List.ext_getElem (hx.trans hy.symm) fun k hk hk' => ?_
  obtain ⟨-, hrowb⟩ := CanonicallyOrderedAdd.mul_pos.1 (Nat.zero_lt_of_lt (hx ▸ hk))
  have hrow := h (k / rowb) (k % rowb) (Nat.div_lt_of_lt_mul (by rwa [Nat.mul_comm, ← hx])) (Nat.mod_lt k hrowb)
  rw [Nat.div_add_mod'] at hrow
  simpa [List.getD_eq_getElem?_getD, hk, hk'] using hrow

/-- The first row becomes the last one. -/
theorem rowrev_append_row {row bytes : List Byte} {rows rowb : Nat} (hrow : row.length = rowb)
    (hbytes : bytes.length = rows * rowb) :
    rowrev (row ++ bytes) (rows + 1) rowb = rowrev bytes rows rowb ++ row := by
  refine eq_of_rows (length_rowrev _ _ _) (by simp [hrow, Nat.succ_mul]) fun i j hi hj => ?_
  rw [getD_rowrev _ hi hj]
  obtain hlt | rfl := Nat.lt_succ_iff_lt_or_eq.1 hi
  · have hfirst : (rows + 1 - 1 - i) * rowb + j = row.length + ((rows - 1 - i) * rowb + j) := by
      have hrows : rows + 1 - 1 - i = rows - 1 - i + 1 := by omega
      rw [hrow, hrows, Nat.succ_mul, Nat.add_right_comm, Nat.add_comm]
    have hlast : i * rowb + j < (rowrev bytes rows rowb).length := by
      rw [length_rowrev]
      exact row_place_lt hlt hj
    rw [List.getD_append _ _ _ _ hlast, getD_rowrev _ hlt hj, hfirst,
      List.getD_append_right _ _ _ _ (Nat.le_add_right _ _), Nat.add_sub_cancel_left]
  · have hlast : (rowrev bytes i rowb).length ≤ i * rowb + j := by
      rw [length_rowrev]
      exact Nat.le_add_right _ _
    rw [Nat.add_sub_cancel, Nat.sub_self, Nat.zero_mul, Nat.zero_add, List.getD_append _ _ _ _ (hrow ▸ hj),
      List.getD_append_right _ _ _ _ hlast, length_rowrev, Nat.add_sub_cancel_left]

/-- Rule R113: the row that faces the row that faces row `i` is row `i`. -/
theorem rowrev_rowrev {bytes : List Byte} {rows rowb : Nat} (h : bytes.length = rows * rowb) :
    rowrev (rowrev bytes rows rowb) rows rowb = bytes := by
  refine eq_of_rows (length_rowrev _ _ _) h fun i j hi hj => ?_
  have hfacing : rows - 1 - (rows - 1 - i) = i := by omega
  rw [getD_rowrev _ hi hj, getD_rowrev _ (by omega) hj, hfacing]

/-! Functions that go through a sequence pixel by pixel. -/

/-- `f` makes `q` bytes of every `p` bytes, from the first ones on, each by themselves. -/
structure PixelWise (f : List Byte → List Byte) (p q : Nat) : Prop where
  nil : f [] = []
  append : ∀ pixel rest, pixel.length = p → f (pixel ++ rest) = f pixel ++ f rest
  length : ∀ pixel, pixel.length = p → (f pixel).length = q

theorem eq_triple {pixel : List Byte} (h : pixel.length = 3) : ∃ b0 b1 b2, pixel = [b0, b1, b2] := by
  simpa [List.length_eq_three] using h

theorem eq_pair {pixel : List Byte} (h : pixel.length = 2) : ∃ hi lo, pixel = [hi, lo] := by
  simpa [List.length_eq_two] using h

theorem pixelWise_swaprb : PixelWise swaprb 3 3 where
  nil := rfl
  append pixel rest h := by obtain ⟨b0, b1, b2, rfl⟩ := eq_triple h; rfl
  length pixel h := by obtain ⟨b0, b1, b2, rfl⟩ := eq_triple h; rfl

theorem pixelWise_packBytes (o : ChannelOrder) : PixelWise (packBytes o) 3 2 where
  nil := rfl
  append pixel rest h := by obtain ⟨b0, b1, b2, rfl⟩ := eq_triple h; rfl
  length pixel h := by obtain ⟨b0, b1, b2, rfl⟩ := eq_triple h; rfl

theorem pixelWise_unpackBytes (o : ChannelOrder) : PixelWise (unpackBytes o) 2 3 where
  nil := rfl
  append pixel rest h := by obtain ⟨hi, lo, rfl⟩ := eq_pair h; rfl
  length pixel h := by obtain ⟨hi, lo, rfl⟩ := eq_pair h; rfl

/-- A sequence of at least `p` bytes is its first pixel and the rest. -/
theorem exists_append_of_length {bytes : List Byte} {p n : Nat} (h : bytes.length = (n + 1) * p) :
    ∃ pixel rest, bytes = pixel ++ rest ∧ pixel.length = p ∧ rest.length = n * p := by
  rw [Nat.succ_mul] at h
  exact ⟨bytes.take p, bytes.drop p, (List.take_append_drop p bytes).symm, by simp; omega, by simp; omega⟩

section
variable {f : List Byte → List Byte} {p q : Nat} (hf : PixelWise f p q)
include hf

theorem PixelWise.length_of_pixels {bytes : List Byte} {n : Nat} (h : bytes.length = n * p) :
    (f bytes).length = n * q := by
  induction n generalizing bytes with
  | zero =>
    obtain rfl := List.eq_nil_of_length_eq_zero (h.trans (Nat.zero_mul p))
    rw [hf.nil, List.length_nil, Nat.zero_mul]
  | succ n ih =>
    obtain ⟨pixel, rest, rfl, hpixel, hrest⟩ := exists_append_of_length h
    rw [hf.append _ _ hpixel, List.length_append, hf.length _ hpixel, ih hrest, Nat.succ_mul, Nat.add_comm]

theorem PixelWise.append_pixels {bytes rest : List Byte} {n : Nat} (h : bytes.length = n * p) :
    f (bytes ++ rest) = f bytes ++ f rest := by
  induction n generalizing bytes with
  | zero =>
    obtain rfl := List.eq_nil_of_length_eq_zero (h.trans (Nat.zero_mul p))
    rw [hf.nil, List.nil_append, List.nil_append]
  | succ n ih =>
    obtain ⟨pixel, bytes, rfl, hpixel, hbytes⟩ := exists_append_of_length h
    rw [List.append_assoc, hf.append _ _ hpixel, hf.append _ _ hpixel, ih hbytes, List.append_assoc]

/-- Rule R117 (c): when a row is a whole number of pixels, it does not matter whether the rows are reversed before or
after the pixels are changed. -/
theorem PixelWise.rowrev_comm {bytes : List Byte} {rows width : Nat} (h : bytes.length = rows * (p * width)) :
    f (rowrev bytes rows (p * width)) = rowrev (f bytes) rows (q * width) := by
  induction rows generalizing bytes with
  | zero => rw [rowrev_zero, rowrev_zero, hf.nil]
  | succ rows ih =>
    obtain ⟨row, bytes, rfl, hrow, hbytes⟩ := exists_append_of_length h
    have hrow' : row.length = width * p := hrow.trans (Nat.mul_comm p width)
    have hbytes' : bytes.length = rows * width * p := by rw [hbytes, Nat.mul_comm p, Nat.mul_assoc]
    have hreversed : (rowrev bytes rows (p * width)).length = rows * width * p := by
      rw [length_rowrev, Nat.mul_comm p, Nat.mul_assoc]
    have hfrow : (f row).length = q * width := by rw [hf.length_of_pixels hrow', Nat.mul_comm]
    have hfbytes : (f bytes).length = rows * (q * width) := by
      rw [hf.length_of_pixels hbytes', Nat.mul_assoc, Nat.mul_comm q]
    rw [rowrev_append_row hrow hbytes, hf.append_pixels hreversed, ih hbytes, hf.append_pixels hrow',
      rowrev_append_row hfrow hfbytes]

/-- A buffer of which every pixel is `f` of the pixel of another buffer is `f` of that buffer. -/
theorem PixelWise.bytesAt_eq {s t : State} {src dst n : Nat}
    (h : ∀ k, k < n → t.bytesAt (dst + q * k) q = f (s.bytesAt (src + p * k) p)) :
    t.bytesAt dst (q * n) = f (s.bytesAt src (p * n)) := by
  induction n with
  | zero => simpa [State.bytesAt] using hf.nil.symm
  | succ n ih =>
    have hlength : (s.bytesAt src (p * n)).length = n * p := by rw [State.length_bytesAt, Nat.mul_comm]
    rw [Nat.mul_succ, Nat.mul_succ, State.bytesAt_append, State.bytesAt_append, hf.append_pixels hlength,
      ih fun k hk => h k (Nat.lt_succ_of_lt hk), h n (Nat.lt_succ_self n)]

end

/-! The statements about byte sequences. -/

/-- Settles O39: the facing row of the facing row, and the exchange of the exchanged bytes of each pixel. -/
theorem rowrevAndSwaprbAreInvolutions : Obligations.RowrevAndSwaprbAreInvolutions := by
  refine ⟨fun bytes rows rowb h => rowrev_rowrev h, fun bytes n h => ?_⟩
  rw [Nat.mul_comm] at h
  induction n generalizing bytes with
  | zero =>
    obtain rfl := List.eq_nil_of_length_eq_zero (h.trans (Nat.zero_mul 3))
    rfl
  | succ n ih =>
    obtain ⟨pixel, rest, rfl, hpixel, hrest⟩ := exists_append_of_length h
    obtain ⟨b0, b1, b2, rfl⟩ := eq_triple hpixel
    exact congrArg ([b0, b1, b2] ++ ·) (ih rest hrest)

/-- Settles O41, pixel by pixel: the two orders name the same channels of a pixel and of the exchanged one. -/
theorem channelOrdersDifferBySwap : Obligations.ChannelOrdersDifferBySwap := by
  have hpack : ∀ bytes, packBytes .rgb bytes = packBytes .bgr (swaprb bytes) ∧
      packBytes .bgr bytes = packBytes .rgb (swaprb bytes) := fun bytes => by
    induction bytes using swaprb.induct with
    | case1 b0 b1 b2 rest ih => simp only [swaprb, packBytes, channelsOf, ih.1, ih.2, and_self]
    | case2 bytes hshort => simp [swaprb, packBytes]
  have hunpack : ∀ bytes, swaprb (unpackBytes .rgb bytes) = unpackBytes .bgr bytes := fun bytes => by
    induction bytes using unpackBytes.induct (o := .rgb) with
    | case1 hi lo rest ih => simp only [swaprb, unpackBytes, bytesOf, ih]
    | case2 bytes hshort => simp [swaprb, unpackBytes]
  exact ⟨fun bytes _ _ => hpack bytes, fun bytes _ _ => hunpack bytes⟩

/-- Settles O42: the three functions are pixel-wise. -/
theorem rowReversalCommutesWithPixels : Obligations.RowReversalCommutesWithPixels := fun o _ _ _ =>
  ⟨fun h => ⟨(pixelWise_packBytes o).rowrev_comm h, pixelWise_swaprb.rowrev_comm h⟩,
    fun h => (pixelWise_unpackBytes o).rowrev_comm h⟩

end Sys2Proof.Machine
end

section
/-! The four commands with two ranges as functions on buffers (42_buffer.md rules R110, R115; 44_pack_unpack.md rules
R138, R140): the destination becomes the function of the source as it was. -/

namespace Sys2Proof.Machine

/-! A command that passes its checks. -/

/-- `t` answers the command `i` in `s`: `DONE` is set, only memory has changed, and the destination is filled. -/
structure Completes (i : Instr) (s t : State) : Prop where
  exec : exec i s = .next t
  sameButMemory : t = { s with done := true, mem := t.mem }
  inside : ∀ k, k < destinationBytes i s → t.byteAt (s.dst.toNat + k) = commandByte i s k

theorem completes_of_fits {i : Instr} (hi : hasTwoRanges i = true) {s : State} (herr : s.err = false)
    (hsrc : s.fits s.src (sourceBytes i s)) (hdst : s.fits s.dst (destinationBytes i s))
    (hmeets : ¬ meets s.src (sourceBytes i s) s.dst (destinationBytes i s)) : ∃ t, Completes i s t := by
  have hok : commandCheck i s = .ok () := by
    rw [commandCheck_of_hasTwoRanges hi, checkBuffers_ok_iff]
    exact ⟨hsrc, hdst, hmeets⟩
  have hfill := filled_of_check_ok hi ((commandCheck_clearDone i s).trans hok)
  have hsame := hfill.sameButMemory
  refine ⟨_, exec_of_check_ok herr hok, congrArg State.setDone hsame, fun k hk => ?_⟩
  have hbyte : commandByte i s.clearDone k = commandByte i s k := by cases i <;> rfl
  have hk' : k < destinationBytes i s.clearDone := by cases i <;> exact hk
  exact (hfill.inside k hk').trans hbyte

/-! The destination of each. -/

theorem bytesAt_two (s : State) (a : Nat) : s.bytesAt a 2 = [s.byteAt a, s.byteAt (a + 1)] := rfl

theorem bytesAt_three (s : State) (a : Nat) :
    s.bytesAt a 3 = [s.byteAt a, s.byteAt (a + 1), s.byteAt (a + 2)] := rfl

section
variable {s t : State}

theorem Completes.rowrev_bytesAt (h : Completes .rowrev s t) :
    t.bytesAt s.dst.toNat s.rowBytes = rowrev (s.bytesAt s.src.toNat s.rowBytes) s.len.toNat s.rowb.toNat := by
  refine eq_of_rows (State.length_bytesAt _ _ _) (length_rowrev _ _ _) fun i j hi hj => ?_
  have hplace : i * s.rowb.toNat + j < s.rowBytes := row_place_lt hi hj
  have hfacing : (s.len.toNat - 1 - i) * s.rowb.toNat + j < s.rowBytes := row_place_lt (by omega) hj
  rw [getD_rowrev _ hi hj, State.getD_bytesAt _ _ _ _ _ hplace, State.getD_bytesAt _ _ _ _ _ hfacing,
    h.inside _ hplace, commandByte, s.rowrevByte_place _ _ _ hj, Nat.add_assoc]

theorem Completes.swaprb_bytesAt (h : Completes .swaprb s t) :
    t.bytesAt s.dst.toNat s.rgbBytes = swaprb (s.bytesAt s.src.toNat s.rgbBytes) := by
  refine pixelWise_swaprb.bytesAt_eq fun k hk => ?_
  have hbyte : ∀ c, c < 3 →
      t.byteAt (s.dst.toNat + 3 * k + c) = s.byteAt (s.src.toNat + 3 * k + (2 - c)) := fun c hc => by
    have hplace : 3 * k + c < 3 * s.len.toNat := by omega
    rw [Nat.add_assoc, h.inside _ hplace, commandByte, s.swaprbByte_place _ _ hc]
  have h0 : t.byteAt (s.dst.toNat + 3 * k) = s.byteAt (s.src.toNat + 3 * k + 2) := hbyte 0 (by decide)
  rw [bytesAt_three, bytesAt_three, h0, hbyte 1 (by decide), hbyte 2 (by decide)]
  rfl

theorem Completes.pack_bytesAt (h : Completes .pack s t) :
    t.bytesAt s.dst.toNat s.packedBytes = packBytes s.order (s.bytesAt s.src.toNat s.rgbBytes) := by
  refine (pixelWise_packBytes s.order).bytesAt_eq fun k hk => ?_
  have hplace : 2 * k + 1 < 2 * s.len.toNat := by omega
  rw [bytesAt_two, bytesAt_three, Nat.add_assoc, h.inside _ hplace, h.inside _ (Nat.lt_of_succ_lt hplace), commandByte,
    commandByte, s.packedByte_high, s.packedByte_low]
  rfl

theorem Completes.unpack_bytesAt (h : Completes .unpack s t) :
    t.bytesAt s.dst.toNat s.rgbBytes = unpackBytes s.order (s.bytesAt s.src.toNat s.packedBytes) := by
  refine (pixelWise_unpackBytes s.order).bytesAt_eq fun k hk => ?_
  have hbyte : ∀ c, c < 3 →
      t.byteAt (s.dst.toNat + 3 * k + c) = (s.unpackedPixel s.src.toNat k).byte c := fun c hc => by
    have hplace : 3 * k + c < 3 * s.len.toNat := by omega
    rw [Nat.add_assoc, h.inside _ hplace, commandByte, s.unpackedByte_place _ _ hc]
  have h0 : t.byteAt (s.dst.toNat + 3 * k) = (s.unpackedPixel s.src.toNat k).byte 0 := hbyte 0 (by decide)
  rw [bytesAt_three, bytesAt_two, h0, hbyte 1 (by decide), hbyte 2 (by decide)]
  rfl

end

/-! The statements. -/

/-- Settles O27: each command completes, and fills its destination with its function of the source. -/
theorem bufferCommandsComputeTheirFunctions : Obligations.BufferCommandsComputeTheirFunctions := by
  intro s herr
  refine ⟨fun hsrc hdst hmeets => ?_, fun hsrc hdst hmeets => ?_, fun hsrc hdst hmeets => ?_,
    fun hsrc hdst hmeets => ?_⟩
  · obtain ⟨t, ht⟩ := completes_of_fits (i := .rowrev) rfl herr hsrc hdst hmeets
    exact ⟨t, ht.exec, ht.rowrev_bytesAt⟩
  · obtain ⟨t, ht⟩ := completes_of_fits (i := .swaprb) rfl herr hsrc hdst hmeets
    exact ⟨t, ht.exec, ht.swaprb_bytesAt⟩
  · obtain ⟨t, ht⟩ := completes_of_fits (i := .pack) rfl herr hsrc hdst hmeets
    exact ⟨t, ht.exec, ht.pack_bytesAt⟩
  · obtain ⟨t, ht⟩ := completes_of_fits (i := .unpack) rfl herr hsrc hdst hmeets
    exact ⟨t, ht.exec, ht.unpack_bytesAt⟩

/-- Settles O40: the second command reverses the rows of the reversed rows. -/
theorem rowrevTwiceRestoresTheBuffer : Obligations.RowrevTwiceRestoresTheBuffer := by
  intro s z herr hsrc hdst hz hmeets hmeets'
  obtain ⟨t, ht⟩ := completes_of_fits (i := .rowrev) rfl herr hsrc hdst hmeets
  have hfirst := ht.rowrev_bytesAt
  obtain ⟨m, rfl⟩ : ∃ m, t = { s with done := true, mem := m } := ⟨_, ht.sameButMemory⟩
  obtain ⟨u, hu⟩ := completes_of_fits (i := .rowrev)
    (s := { s with done := true, mem := m, src := s.dst, dst := z }) rfl herr hdst hz hmeets'
  refine ⟨_, u, ht.exec, hu.exec, ?_⟩
  have hsecond : u.bytesAt z.toNat s.rowBytes =
      rowrev ({ s with done := true, mem := m }.bytesAt s.dst.toNat s.rowBytes) s.len.toNat s.rowb.toNat :=
    hu.rowrev_bytesAt
  rw [hsecond, hfirst]
  exact rowrev_rowrev (State.length_bytesAt _ _ _)

end Sys2Proof.Machine
end

section
/-! The checksum as a function (41_checksum.md rules R100, R102), and scripts of the host (30_encoding.md rules R70,
R71): several transactions as one run. -/

namespace Sys2Proof.Machine

/-! `bytesum`. -/

theorem sum_bytes_le (bytes : List Byte) : (bytes.map (·.toNat)).sum ≤ 255 * bytes.length := by
  have hbyte : ∀ x ∈ bytes.map (·.toNat), x ≤ 255 := by
    simp only [List.mem_map]
    rintro _ ⟨b, -, rfl⟩
    exact Nat.le_of_lt_succ b.isLt
  simpa [Nat.mul_comm] using List.sum_le_card_nsmul _ 255 hbyte

/-- Settles O36: the sum of the bytes has these properties, and up to 16843009 bytes it is at most 2^32 - 1. -/
theorem bytesumIsAdditive : Obligations.BytesumIsAdditive := by
  refine ⟨fun a b => ?_, fun a b h => ?_, fun a => ?_, fun a h => ?_⟩
  · simp [bytesum, Nat.add_mod]
  · rw [bytesum, (h.map _).sum_eq, bytesum]
  · simp [bytesum]
  · have hsum := sum_bytes_le a
    rw [bytesum, Nat.mod_eq_of_lt (by omega)]

/-! Runs of several transactions. -/

theorem runsTo_one {s t : State} (h : step s = .next t) : runsTo 1 s t :=
  runsTo_succ.2 ⟨t, h, runsTo_zero.2 rfl⟩

theorem runsTo_add {j k : Nat} {s t u : State} (h : runsTo j s t) (h' : runsTo k t u) : runsTo (j + k) s u := by
  induction j generalizing s with
  | zero =>
    obtain rfl := runsTo_zero.1 h
    rwa [Nat.zero_add]
  | succ j ih =>
    obtain ⟨v, hstep, hrun⟩ := runsTo_succ.1 h
    rw [Nat.succ_add]
    exact runsTo_succ.2 ⟨v, hstep, ih hrun⟩

/-- The statement `wr REG, v` for a register other than `CMD`. -/
theorem runsTo_writeTo {s : State} {rest : List Transaction} {r : RegName} {v : Word}
    (h : s.script = writeTo r v :: rest) (hr : r ≠ .cmd) :
    runsTo 1 s ({ s with script := rest }.writeReg r v) := by
  have hoffset : r.offset % 4 = 0 := by cases r <;> rfl
  refine runsTo_one ?_
  rw [step_regWrite h hoffset (r.offset_lt.trans (by decide)), writeOffset_offset hr]

/-- The statement `cmd` of a command. -/
theorem runsTo_command {s t : State} {rest : List Transaction} {i : Instr} (h : s.script = .command (encode i) :: rest)
    (hexec : exec i { s with script := rest } = .next t) : runsTo 1 s t :=
  runsTo_one ((stepRunsTheDecodedCommand.1 s rest (encode i) i h (decode_encode i)).trans hexec)

/-! The checksum of several ranges. -/

/-- The pseudo-statement `sum.buf`: `SRC` and `LEN` are written, and the bytes are added to `CSUM`. -/
theorem runsTo_sumBuf {s : State} {rest : List Transaction} {a n : Word}
    (h : s.script = (Stmt.sumBuf a n).expand ++ rest) (herr : s.err = false) (hfits : s.fits a n.toNat) :
    runsTo 3 s { s with
      script := rest, src := a, len := n, done := true, csum := sumLoop s a.toNat n.toNat s.csum } := by
  have hsrc := runsTo_writeTo (rest := writeTo .len n :: .command (encode .sum) :: rest) h (by decide)
  have hlen := runsTo_writeTo
    (s := { s with script := writeTo .len n :: .command (encode .sum) :: rest, src := a }) rfl (by decide)
  have hsum := runsTo_command (i := .sum)
    (s := { s with script := .command (encode .sum) :: rest, src := a, len := n }) rfl
    (exec_sum_of_fits (s := { s with script := rest, src := a, len := n }) herr hfits)
  exact runsTo_add (runsTo_add hsrc hlen) hsum

/-- Settles O37: the two loops run one after the other from an accumulator of 0, on a memory they do not change. -/
theorem runningChecksumOverTwoRanges : Obligations.RunningChecksumOverTwoRanges := by
  intro s rest a n b m h herr hfits hfits'
  have hclear := runsTo_writeTo (rest := (Stmt.sumBuf a n).expand ++ ((Stmt.sumBuf b m).expand ++ rest)) h (by decide)
  have hfirst := runsTo_sumBuf (rest := (Stmt.sumBuf b m).expand ++ rest)
    (s := { s with script := (Stmt.sumBuf a n).expand ++ ((Stmt.sumBuf b m).expand ++ rest), csum := 0 })
    rfl herr hfits
  have hsecond := runsTo_sumBuf (rest := rest) (a := b) (n := m)
    (s := { s with
      script := (Stmt.sumBuf b m).expand ++ rest, src := a, len := n, done := true
      csum := sumLoop s a.toNat n.toNat 0 }) rfl herr hfits'
  refine ⟨_, ⟨runsTo_add (runsTo_add hclear hfirst) hsecond, herr⟩, rfl, rfl, ?_⟩
  have hzero : (0 : Word).toNat = 0 := rfl
  refine (toNat_sumLoop s b.toNat m.toNat _).trans ?_
  rw [toNat_sumLoop, hzero, Nat.zero_add, Nat.mod_add_mod, bytesum, List.map_append, List.sum_append]

/-! Bytes written and read back. -/

/-- The state after bytes have been stored one after another from `a` on. -/
def State.storeBytes (s : State) : Nat → List Byte → State
  | _, [] => s
  | a, b :: bs => (s.setByte a b).storeBytes (a + 1) bs

theorem storeBytes_sameButMemory (s : State) (a : Nat) (bytes : List Byte) :
    sameButMemory s (s.storeBytes a bytes) := by
  induction bytes generalizing s a with
  | nil => exact sameButMemory_refl s
  | cons b bs ih => exact sameButMemory_trans (sameButMemory_setByte s a b) (ih _ _)

theorem byteAt_storeBytes_below (s : State) {a c : Nat} (hc : c < a) (bytes : List Byte) :
    (s.storeBytes a bytes).byteAt c = s.byteAt c := by
  induction bytes generalizing s a with
  | nil => rfl
  | cons b bs ih =>
    rw [State.storeBytes, ih _ (Nat.lt_succ_of_lt hc), State.byteAt_setByte_other _ _ _ _ (Nat.ne_of_lt hc)]

theorem bytesAt_cons (s : State) (a n : Nat) : s.bytesAt a (n + 1) = s.byteAt a :: s.bytesAt (a + 1) n := by
  rw [Nat.add_comm, State.bytesAt_append]
  rfl

/-- Bytes just stored read as stored. -/
theorem bytesAt_storeBytes (s : State) (a : Nat) (bytes : List Byte) :
    (s.storeBytes a bytes).bytesAt a bytes.length = bytes := by
  induction bytes generalizing s a with
  | nil => rfl
  | cons b bs ih =>
    rw [List.length_cons, bytesAt_cons, State.storeBytes, byteAt_storeBytes_below _ (Nat.lt_succ_self a),
      State.byteAt_setByte_same, ih]

/-- The statement `mw`. -/
theorem runsTo_writeBytes {s : State} {rest : List Transaction} {a : Nat} {bytes : List Byte}
    (h : s.script = writeBytes a bytes ++ rest) (hfits : a + bytes.length ≤ s.memSize) :
    runsTo bytes.length s ({ s with script := rest }.storeBytes a bytes) := by
  induction bytes generalizing s a with
  | nil =>
    obtain rfl : s.script = rest := h
    exact runsTo_zero.2 rfl
  | cons b bs ih =>
    rw [List.length_cons] at hfits
    refine runsTo_succ.2 ⟨_, step_bufWrite h (by omega), ?_⟩
    exact ih (s := { s with script := writeBytes (a + 1) bs ++ rest }.setByte a b) rfl
      (show a + 1 + bs.length ≤ s.memSize by omega)

/-- The statement `mr`: the answers stand newest first. -/
theorem runsTo_readBytes {s : State} {rest : List Transaction} {a n : Nat} (h : s.script = readBytes a n ++ rest)
    (hfits : a + n ≤ s.memSize) :
    runsTo n s { s with
      script := rest, replies := ((s.bytesAt a n).map Reply.byte).reverse ++ s.replies } := by
  induction n generalizing rest with
  | zero =>
    obtain rfl : s.script = rest := h
    exact runsTo_zero.2 rfl
  | succ n ih =>
    have hsplit : readBytes a (n + 1) ++ rest = readBytes a n ++ (.bufRead (a + n) :: rest) := by
      simp [readBytes, List.range_succ]
    have hreplies : ((s.bytesAt a (n + 1)).map Reply.byte).reverse ++ s.replies =
        .byte (s.byteAt (a + n)) :: (((s.bytesAt a n).map Reply.byte).reverse ++ s.replies) := by
      simp [State.bytesAt_succ]
    rw [hreplies]
    exact runsTo_add (ih (h.trans hsplit) (by omega)) (runsTo_one (step_bufRead rfl hfits))

/-- Settles O38: what `mr` reads is what `mw` has stored. -/
theorem scriptReadsBackWhatItWrote : Obligations.ScriptReadsBackWhatItWrote := by
  intro s rest a bytes h hfits
  have hscript : s.script = writeBytes a bytes ++ (readBytes a bytes.length ++ rest) := by
    simpa [expandAll, Stmt.expand] using h
  have hwrite := runsTo_writeBytes hscript hfits
  have hsame := storeBytes_sameButMemory { s with script := readBytes a bytes.length ++ rest } a bytes
  have hbytes := bytesAt_storeBytes { s with script := readBytes a bytes.length ++ rest } a bytes
  rw [sameButMemory] at hsame
  rw [hsame] at hwrite hbytes
  refine ⟨_, runsTo_add hwrite (runsTo_readBytes rfl hfits), rfl, ?_⟩
  rw [hbytes]

end Sys2Proof.Machine
end
